-- ==== Sys2Proof/Word.lean ====
section
/-!
DEFINITION. The word types of the block (00_scope.md R9): bytes, raw 16-bit values, 24-bit payloads, 32-bit
command and response words, and the index of a Field Slot.
-/

namespace Sys2Proof

/-- An 8-bit value, `u8` of R9: a frame byte, a checksum, the accumulator. -/
abbrev Byte := BitVec 8

/-- A 16-bit two's-complement value, `i16` of R9: a record's two data bytes read big-endian. -/
abbrev Raw := BitVec 16

/-- A 24-bit value: a command's operand (R52), a response's payload (R56), a scaled result (R7). -/
abbrev Word24 := BitVec 24

/-- A 32-bit word: a command (R51) or a response (R56). -/
abbrev Word32 := BitVec 32

/-- A Field Slot, 0 to 7 (R6, R54): every three-bit value names one. -/
abbrev Slot := Fin 8

/-- The eight slots in the ascending order in which `DECODE` visits them (R79). -/
def allSlots : List Slot := [0, 1, 2, 3, 4, 5, 6, 7]

end Sys2Proof
end

