-- ==== Sys2Proof/Syntax.lean ====
section
/-!
DEFINITION. The command set `CV1` as syntax: one constructor per row of spec/opcode_table.json (30_encoding.md R58), each
with the operands its format carries (R53, R54). A field has exactly the width the spec gives it, so every term of
`Instr` is a legal command: what can be ill-formed is a command WORD, and WellFormed.lean says which words are.
-/

namespace Sys2Proof

/-- The eleven commands of R58, with the operands of R63 in R63's order. -/
inductive Instr where
  /-- `RST` (R94): reset the block. -/
  | rst
  /-- `RDST` (R95): read `STATUS`. -/
  | rdst
  /-- `CRC2 b0, b1` (R70): checksum of two bytes. -/
  | crc2 (b0 b1 : Byte)
  /-- `VREC b0, b1, c` (R71): validate and decode one record given in the operand. -/
  | vrec (b0 b1 c : Byte)
  /-- `RDACC` (R72): read the accumulator. -/
  | rdacc
  /-- `FCLR` (R77): start a new frame. -/
  | fclr
  /-- `PUSH b` (R78): append one byte to the frame buffer. -/
  | push (b : Byte)
  /-- `DECODE` (R79): validate and decode the buffered frame. -/
  | decode
  /-- `RDI s` (R80): read a slot's decoded integer. -/
  | rdi (slot : Slot)
  /-- `SCL s, v` (R88): scale an integer given in the operand. -/
  | scl (slot : Slot) (v : Raw)
  /-- `RDS s` (R89): read a slot's scaled value. -/
  | rds (slot : Slot)
  deriving DecidableEq, Repr

/-- The six operand formats of R53. -/
inductive Format where
  /-- No operand: all 24 bits must be 0. -/
  | Z
  /-- One byte in bits 7:0. -/
  | B
  /-- One slot in bits 2:0. -/
  | S
  /-- Two data bytes in bits 15:8 and 7:0. -/
  | W2
  /-- Two data bytes and a checksum byte; no reserved bit. -/
  | W3
  /-- A slot in bits 18:16 and a 16-bit value in bits 15:0. -/
  | SV
  deriving DecidableEq, Repr

/-- The operand format of each command (R58). -/
def Instr.format : Instr → Format
  | .rst => .Z
  | .rdst => .Z
  | .crc2 _ _ => .W2
  | .vrec _ _ _ => .W3
  | .rdacc => .Z
  | .fclr => .Z
  | .push _ => .B
  | .decode => .Z
  | .rdi _ => .S
  | .scl _ _ => .SV
  | .rds _ => .S

end Sys2Proof
end

