-- ==== Sys2Proof/WellFormed.lean ====
section
/-!
DEFINITION. Which command words are well-formed: the opcode map of 30_encoding.md R58 as data (opcode, format, match,
mask), and the reserved operand bits of each format (R53, R61). The decoder of Decode.lean is written from R63 and does
not use this file, so that the two texts of the spec can be held against each other.
-/

namespace Sys2Proof

/-- The "must be 0" bits of a format's operand, as a mask over operand bits 23:0 (R53). -/
def Format.reserved : Format → Word24
  | .Z => 0xFFFFFF
  | .B => 0xFFFF00
  | .S => 0xFFFFF8
  | .W2 => 0xFF0000
  | .W3 => 0x000000
  | .SV => 0xF80000

/-- An operand is well-formed in a format when no reserved bit of it is set (R61). -/
def Format.accepts (f : Format) (operand : Word24) : Bool := operand &&& f.reserved == 0

/-- One row of the opcode map (R58). -/
structure OpRow where
  mnemonic : String
  opcode : Byte
  format : Format
  pattern : Word32
  mask : Word32
  deriving DecidableEq, Repr

/-- The opcode map (R58), in the spec's order. -/
def opcodeMap : List OpRow :=
  [ ⟨"RST", 0x01, .Z, 0x01000000, 0xFFFFFFFF⟩,
    ⟨"RDST", 0x02, .Z, 0x02000000, 0xFFFFFFFF⟩,
    ⟨"CRC2", 0x40, .W2, 0x40000000, 0xFFFF0000⟩,
    ⟨"VREC", 0x41, .W3, 0x41000000, 0xFF000000⟩,
    ⟨"RDACC", 0x42, .Z, 0x42000000, 0xFFFFFFFF⟩,
    ⟨"FCLR", 0x50, .Z, 0x50000000, 0xFFFFFFFF⟩,
    ⟨"PUSH", 0x51, .B, 0x51000000, 0xFFFFFF00⟩,
    ⟨"DECODE", 0x52, .Z, 0x52000000, 0xFFFFFFFF⟩,
    ⟨"RDI", 0x53, .S, 0x53000000, 0xFFFFFFF8⟩,
    ⟨"SCL", 0x60, .SV, 0x60000000, 0xFFF80000⟩,
    ⟨"RDS", 0x61, .S, 0x61000000, 0xFFFFFFF8⟩ ]

/-- A word `w` is the command of a row exactly when `w & mask == match` (R58). -/
def OpRow.matches (row : OpRow) (w : Word32) : Bool := w &&& row.mask == row.pattern

/-- A command word is well-formed when some row of the opcode map matches it; every other word is illegal (R58, R60,
R61). -/
def wellFormedWord (w : Word32) : Bool := opcodeMap.any (fun row => row.matches w)

end Sys2Proof
end

