-- ==== Sys2Proof/Decode.lean ====
section
/-!
DEFINITION. The decoder of 30_encoding.md R63, total on 32-bit words, and after it the encoder, from the operand
formats of R53 and the opcodes of R58. A command word is one 32-bit value whose bit positions are those of R52; it is
no memory and has no byte order (20_memory.md R40).
-/

namespace Sys2Proof

/-- Why a word is no command: the two kinds of R60 and R61. The block answers both with `ERR_ILLEGAL`. -/
inductive Illegal where
  /-- The opcode stands in no row of R58 (R60). -/
  | reservedOpcode (opcode : Byte)
  /-- The opcode is a command's, and a "must be 0" bit of its operand is 1 (R61). -/
  | reservedOperandBits (opcode : Byte) (operand : Word24)
  deriving DecidableEq, Repr

/-- Bits 31:24 of a command word (R52). -/
def opcodeOf (w : Word32) : Byte := w.extractLsb' 24 8

/-- Bits 23:0 of a command word (R52). -/
def operandOf (w : Word32) : Word24 := w.extractLsb' 0 24

/-- The slot a three-bit field names (R54). -/
def slotOfBits (v : BitVec 3) : Slot := v.toFin

/-- The three bits that name a slot (R54). -/
def slotBits (slot : Slot) : BitVec 3 := BitVec.ofFin slot

/-- The opcodes of R58. -/
def commandOpcodes : List Byte :=
  [0x01, 0x02, 0x40, 0x41, 0x42, 0x50, 0x51, 0x52, 0x53, 0x60, 0x61]

/-- The name of the refusal of a word that is no command (R60, R61). -/
def illegalReason (op : Byte) (x : Word24) : Illegal :=
  if op ∈ commandOpcodes then .reservedOperandBits op x else .reservedOpcode op

/-- `decode(w)` of R63, clause by clause. -/
def decode (w : Word32) : Except Illegal Instr :=
  let op := opcodeOf w
  let x := operandOf w
  if op = 0x01 ∧ x = 0 then .ok .rst
  else if op = 0x02 ∧ x = 0 then .ok .rdst
  else if op = 0x40 ∧ x.extractLsb' 16 8 = 0 then .ok (.crc2 (x.extractLsb' 8 8) (x.extractLsb' 0 8))
  else if op = 0x41 then .ok (.vrec (x.extractLsb' 16 8) (x.extractLsb' 8 8) (x.extractLsb' 0 8))
  else if op = 0x42 ∧ x = 0 then .ok .rdacc
  else if op = 0x50 ∧ x = 0 then .ok .fclr
  else if op = 0x51 ∧ x.extractLsb' 8 16 = 0 then .ok (.push (x.extractLsb' 0 8))
  else if op = 0x52 ∧ x = 0 then .ok .decode
  else if op = 0x53 ∧ x.extractLsb' 3 21 = 0 then .ok (.rdi (slotOfBits (x.extractLsb' 0 3)))
  else if op = 0x60 ∧ x.extractLsb' 19 5 = 0 then
    .ok (.scl (slotOfBits (x.extractLsb' 16 3)) (x.extractLsb' 0 16))
  else if op = 0x61 ∧ x.extractLsb' 3 21 = 0 then .ok (.rds (slotOfBits (x.extractLsb' 0 3)))
  else .error (illegalReason op x)

/-- The opcode of a command (R58). -/
def Instr.opcode : Instr → Byte
  | .rst => 0x01
  | .rdst => 0x02
  | .crc2 _ _ => 0x40
  | .vrec _ _ _ => 0x41
  | .rdacc => 0x42
  | .fclr => 0x50
  | .push _ => 0x51
  | .decode => 0x52
  | .rdi _ => 0x53
  | .scl _ _ => 0x60
  | .rds _ => 0x61

/-- The 24 operand bits of a command, laid out by its format (R53), reserved bits 0. -/
def Instr.operand : Instr → Word24
  | .rst => 0
  | .rdst => 0
  | .crc2 b0 b1 => 0#8 ++ b0 ++ b1
  | .vrec b0 b1 c => b0 ++ b1 ++ c
  | .rdacc => 0
  | .fclr => 0
  | .push b => 0#16 ++ b
  | .decode => 0
  | .rdi slot => 0#21 ++ slotBits slot
  | .scl slot v => 0#5 ++ slotBits slot ++ v
  | .rds slot => 0#21 ++ slotBits slot

/-- The command word of a command (R52): its opcode above its operand. -/
def encode (i : Instr) : Word32 := i.opcode ++ i.operand

/-- The decoder on a word as spec/opcode_table.json numbers its bits: every row has 32 bits, bit 0 the least
significant; bits at or above `nbits` are 0. -/
def decodeTableWord (nbits w : Nat) : Option Instr :=
  match decode (BitVec.ofNat 32 (w % 2 ^ nbits)) with
  | .ok i => some i
  | .error _ => none

end Sys2Proof
end

