-- ==== Sys2Proof/Config.lean ====
section
/-!
DEFINITION. The constants of the block. Those of 00_scope.md R6 are the document's, those of R7 are the spec's; both are
wired in (10_state.md R24), so none is an argument of the model. The spec leaves no value of the block open
that a command can show, so there is no free value here (see notes/assumptions/4.md for the frame buffer's cells).
-/

namespace Sys2Proof.Config

/-- `POLY` (R6): XORed into the accumulator after a shift whose outgoing bit was 1. -/
def poly : Byte := 0x31

/-- `INIT` (R6): the accumulator's value at the start of every checksum computation. -/
def init : Byte := 0xFF

/-- `REC_BYTES` (R6): a Raw Record is two data bytes and one checksum byte. -/
def recBytes : Nat := 3

/-- `FRAME_BYTES` (R6): eight records of three bytes. -/
def frameBytes : Nat := 24

/-- `LEN_MAX` (R7): the value of `LEN` that stands for "more than 24 bytes were pushed". -/
def lenMax : Nat := 25

/-- The value at which `MISCNT` saturates (R7, R23). -/
def misCntMax : Nat := 255

/-- `SCALE_DEN` (R7): the scaler's output counts thousandths of the slot's unit. -/
def scaleDen : Nat := 1000

/-- `DIV[0..7]` (R6): the scaling divisor of each slot. -/
def divTable : Vector Nat 8 := #v[10, 10, 10, 10, 100, 200, 10, 10]

/-- `MUL[0..7]` (R7): the constant the scaler multiplies by. -/
def mulTable : Vector Nat 8 := #v[100, 100, 100, 100, 10, 5, 100, 100]

/-- `DIV[s]` (R6). -/
def div (slot : Slot) : Nat := divTable[slot]

/-- `MUL[s]` (R7). -/
def mul (slot : Slot) : Nat := mulTable[slot]

end Sys2Proof.Config
end

