-- ==== Sys2Proof/Machine/State.lean ====
section
/-!
DEFINITION. The state of the block as plain data (10_state.md R15), the responses it can give (30_encoding.md R57, R59),
what the host can do to it (R51, 70_reset_and_hazards.md R123), the model's own faults and refusals, and the state after
reset (R32, R124).
-/

namespace Sys2Proof.Machine

/-- The frame buffer's cells as (address, byte) pairs, addresses strictly rising. An address that is not listed holds no
value (R44; notes/assumptions/4.md). -/
abbrev Memory := List Host.Cell

/-- What an `OK` response carries, per command (R59). A value that may be absent is an `Option`, and its zero bits appear
only when the response is packed into a word (R59). -/
inductive Answer where
  /-- `RST`, `FCLR`: nothing. -/
  | nothing
  /-- `RDST`: `STATUS`. -/
  | status (v : Word24)
  /-- `CRC2`, `RDACC`: a checksum or the accumulator. -/
  | checksum (b : Byte)
  /-- `VREC`: the computed checksum and the decoded value, absent when the record is invalid. -/
  | record (crc : Byte) (value : Option Raw)
  /-- `PUSH`: the new `LEN`. -/
  | length (v : BitVec 5)
  /-- `DECODE`: the new `MISMASK`. -/
  | mismatches (m : Byte)
  /-- `RDI`: the slot's integer, if present. -/
  | integer (v : Option Raw)
  /-- `SCL`, `RDS`: a scaled value, if present. -/
  | scaled (v : Option Word24)
  deriving DecidableEq, Repr

/-- A response: the four statuses the block can produce (R57), `OK` with its answer. -/
inductive Response where
  /-- Status 0: the command was carried out. -/
  | ok (a : Answer)
  /-- Status 1: the word is no command (R100). -/
  | errIllegal
  /-- Status 2: the block is faulted (R101). -/
  | errFault
  /-- Status 3: this `DECODE` raised `PreconditionViolation` (R103). -/
  | faultPv
  deriving DecidableEq, Repr

/-- What the host can do to the block: issue any 32-bit word (R14, R119), or assert a reset pin where an implementation
has one (R123). -/
inductive HostInput where
  | command (w : Word32)
  | resetPin
  deriving DecidableEq, Repr

/-- The faults of the MODEL: each stops the run and says which access the spec gives no meaning. The block's own fault,
`PreconditionViolation`, is none of these: it is a next state (R103). -/
inductive Fault where
  /-- Raised by `memByte` and `memWrite` for an address above 23: R10 defines MemRead and MemWrite inside the frame
  buffer only. No command gives such an address in any state. Safe: the run stops. -/
  | outsideFrame (addr : Nat)
  /-- Raised by `DECODE` when `LEN` is 24 and a cell holds no value (R44). No state that meets the invariant of R29 has
  such a cell below `LEN`. Safe: the run stops. -/
  | unwrittenCell (addr : Nat)
  deriving DecidableEq, Repr

/-- Why the MODEL gives an instruction no meaning. The block's refusals `ERR_ILLEGAL` and `ERR_FAULT` are none of these:
they are next states (R100, R101). -/
inductive Refusal where
  /-- Raised by `exec` for an instruction that has no meaning yet; no arm raises it now. Safe: the run stops. -/
  | notModelled (mnemonic : String)
  deriving DecidableEq, Repr

/-- The eight items of R15, and the two lists at the host's side of the interface. -/
structure State where
  /-- `ACC`, the polynomial accumulator (R16). -/
  acc : Byte
  /-- `FB[0..23]`, the frame buffer (R17). -/
  fb : Memory
  /-- `LEN`, 0 to 25: bytes pushed since the buffer was last cleared, 25 for more than 24 (R18). -/
  len : Nat
  /-- `RES[0..7]`, the decoded values, `none` for absent (R19). -/
  res : Vector (Option Raw) 8
  /-- `DONE` (R20). -/
  done : Bool
  /-- `PV`: the block is faulted (R21). -/
  pv : Bool
  /-- `MISMASK`, bit `s` for slot `s` (R22). -/
  misMask : Byte
  /-- `MISCNT` (R23). -/
  misCnt : Byte
  /-- The MODEL's own: what the host does next, oldest first (notes/assumptions/1.md). -/
  pending : List HostInput
  /-- The MODEL's own: the responses produced, newest first (notes/assumptions/3.md). -/
  responses : List Response
  deriving DecidableEq, Repr

/-- The state after power-on (R32, R124). `FB` is unspecified there: no cell holds a value (notes/assumptions/4.md). The
host has issued nothing and received nothing. -/
def State.reset : State where
  acc := 0xFF
  fb := []
  len := 0
  res := Vector.replicate 8 none
  done := false
  pv := false
  misMask := 0
  misCnt := 0
  pending := []
  responses := []

end Sys2Proof.Machine
end

