-- ==== Sys2Proof/Machine/Ops.lean ====
section
/-!
DEFINITION. The named operations over the frame buffer, the registers and the host's side of the interface, the admission
check of every command (30_encoding.md R64), taking the `PreconditionViolation` (60_exceptions.md R103) and beside it
the way out of it, reset (R108, 43_system.md R94).
-/

namespace Sys2Proof.Machine

/-! ### The frame buffer -/

/-- The byte a cell holds, if it holds one (R44). -/
def Memory.read : Memory → Nat → Option Byte
  | [], _ => none
  | (k, v) :: m, a => if a = k then some v else Memory.read m a

/-- Write one cell, keeping the addresses strictly rising. -/
def Memory.write : Memory → Nat → Byte → Memory
  | [], a, b => [(a, b)]
  | (k, v) :: m, a, b =>
    if a < k then (a, b) :: (k, v) :: m
    else if a = k then (a, b) :: m
    else (k, v) :: Memory.write m a b

/-- The canonical form of the frame buffer: addresses strictly rising, every one of them 0 to 23 (R35). -/
abbrev Memory.wf (m : Memory) : Prop :=
  m.Pairwise (fun c d => c.1 < d.1) ∧ ∀ c ∈ m, c.1 < Config.frameBytes

/-- `MemRead(addr, 1)` (R10): defined inside the buffer, for a cell that holds a value. -/
def memByte (s : State) (a : Nat) : Except Fault Byte :=
  if a < Config.frameBytes then
    match s.fb.read a with
    | some b => .ok b
    | none => .error (.unwrittenCell a)
  else .error (.outsideFrame a)

/-- `MemWrite(addr, 1, b)` (R10): defined inside the buffer. -/
def memWrite (s : State) (a : Nat) (b : Byte) : Except Fault State :=
  if a < Config.frameBytes then .ok { s with fb := s.fb.write a b } else .error (.outsideFrame a)

/-! ### Results -/

/-- `RES[slot] <- v` (R10, R19). -/
def State.setRes (s : State) (slot : Slot) (v : Option Raw) : State :=
  { s with res := s.res.set slot v }

/-- All results absent, `DONE` 0, `MISMASK` 0: what `FCLR`, `PUSH`, the fault and reset have in common (R77, R78, R94,
R103). -/
def State.clearResults (s : State) : State :=
  { s with res := Vector.replicate 8 none, done := false, misMask := 0 }

/-! ### The host's side -/

/-- Produce a response: one for each command (R55). -/
def State.respond (s : State) (r : Response) : State :=
  { s with responses := r :: s.responses }

/-- The command ends with status `OK` (R57). -/
def State.answer (s : State) (a : Answer) : State := s.respond (.ok a)

/-- What the host does next, and the state in which the block carries it out; nothing when the host has issued no
further command. -/
def State.takeInput (s : State) : Option (HostInput × State) :=
  match s.pending with
  | [] => none
  | x :: rest => some (x, { s with pending := rest })

/-- The host issues a command ahead of everything it does later. -/
def State.placeCommand (s : State) (w : Word32) : State :=
  { s with pending := .command w :: s.pending }

/-! ### Admission, the fault, and the way out -/

/-- The block's second check (R64, R101): a faulted block refuses the command, changing no state. -/
def whenOperating (s : State) (run : State → Host.Outcome State Fault Refusal) : Host.Outcome State Fault Refusal :=
  if s.pv then .next (s.respond .errFault) else run s

/-- The block's first check (R64, R100): a word that is no command changes no state, faulted or not. -/
def refuseIllegal (s : State) : Host.Outcome State Fault Refusal := .next (s.respond .errIllegal)

/-- `raise PreconditionViolation` (R103): `ACC`, `FB`, `LEN` and `MISCNT` are not written. -/
def raisePreconditionViolation (s : State) : Host.Outcome State Fault Refusal :=
  .next (({ s with pv := true }).clearResults.respond .faultPv)

/-- Reset (R94, R32), the only way out of the faulted condition (R108). The cells of `FB` are not cleared (R94,
notes/assumptions/5.md). -/
def State.resetBlock (s : State) : State :=
  { s.clearResults with acc := Config.init, len := 0, pv := false, misCnt := 0 }

/-- A reset pin asserted (R123): the effect of `RST` without a response. -/
def resetPinAsserted (s : State) : Host.Outcome State Fault Refusal := .next s.resetBlock

/-- The host has issued no further command: the block changes nothing (R14, R47). -/
def idle (s : State) : Host.Outcome State Fault Refusal := .next s

end Sys2Proof.Machine
end

