-- ==== Sys2Proof/Machine/Crc.lean ====
section
/-!
DEFINITION. The checksum functions of 40_checksum.md R66 to R68, and the accumulator register carrying one computation
(R16, R70).
-/

namespace Sys2Proof.Machine

/-- `crc8_shift(a)` (R66): one step; the high bit is tested before the shift. -/
def crc8Shift (a : Byte) : Byte :=
  if a.getLsbD 7 then (a <<< 1) ^^^ Config.poly else a <<< 1

/-- `n` shift steps. -/
def crc8Shifts : Nat → Byte → Byte
  | 0, a => a
  | n + 1, a => crc8Shifts n (crc8Shift a)

/-- `crc8_absorb(a, b)` (R67): the whole byte is XORed in, then exactly eight steps follow. -/
def crc8Absorb (a b : Byte) : Byte := crc8Shifts 8 (a ^^^ b)

/-- `crc8_2(b0, b1)` (R68): from the initial value, `b0` first; no final XOR. -/
def crc8Two (b0 b1 : Byte) : Byte := crc8Absorb (crc8Absorb Config.init b0) b1

/-- The three writes of `ACC` that make one checksum computation (R70). -/
def State.checksum (s : State) (b0 b1 : Byte) : State :=
  let s0 := { s with acc := Config.init }
  let s1 := { s0 with acc := crc8Absorb s0.acc b0 }
  { s1 with acc := crc8Absorb s1.acc b1 }

end Sys2Proof.Machine
end

