-- ==== Sys2Proof/Machine/Operands.lean ====
section
/-!
DEFINITION. The record functions of 41_frame.md (R75, R76, R82), a record read from the frame buffer (20_memory.md R37,
R41), and the scaling function of 42_scaler.md R87.
-/

namespace Sys2Proof.Machine

/-- One Raw Record (R12): two data bytes in frame order, and the stored checksum byte. -/
structure Record where
  b0 : Byte
  b1 : Byte
  c : Byte
  deriving DecidableEq, Repr

/-- `be16s(b0, b1)` (R75): the first byte is the more significant. -/
def be16s (b0 b1 : Byte) : Raw := b0 ++ b1

/-- `decode_record(b0, b1, c)` (R76). -/
def decodeRecord (b0 b1 c : Byte) : Option Raw :=
  if crc8Two b0 b1 = c then some (be16s b0 b1) else none

/-- The decoded value of a record (R76). -/
def Record.value (r : Record) : Option Raw := decodeRecord r.b0 r.b1 r.c

/-- `enc(v)` (R82): the record that carries a value. -/
def encodeRecord (v : Raw) : Record where
  b0 := v.extractLsb' 8 8
  b1 := v.extractLsb' 0 8
  c := crc8Two (v.extractLsb' 8 8) (v.extractLsb' 0 8)

/-- The address of a slot's record (R37): the offset is the slot index times 3. -/
def recordAddr (slot : Slot) : Nat := slot.val * Config.recBytes

/-- `MemRead(3*s, 3)` (R41, R79): the record of a slot. -/
def readRecord (s : State) (slot : Slot) : Except Fault Record :=
  match memByte s (recordAddr slot) with
  | .error e => .error e
  | .ok b0 =>
    match memByte s (recordAddr slot + 1) with
    | .error e => .error e
    | .ok b1 =>
      match memByte s (recordAddr slot + 2) with
      | .error e => .error e
      | .ok c => .ok ⟨b0, b1, c⟩

/-- `scale(s, v)` (R87): the value sign-extended to 24 bits, times the slot's constant, low 24 bits. -/
def scale (slot : Slot) (v : Raw) : Word24 :=
  v.signExtend 24 * BitVec.ofNat 24 (Config.mul slot)

/-- The physical value of a slot (R87): the scaled count of thousandths, as the rational number it stands for. -/
def physicalValue (slot : Slot) (v : Raw) : Rat :=
  ((scale slot v).toInt : Rat) / (Config.scaleDen : Rat)

end Sys2Proof.Machine
end

