-- ==== Sys2Proof/Machine/Checksum.lean ====
section
/-!
DEFINITION. The checksum family (40_checksum.md): `CRC2`, `VREC`, `RDACC`. Each writes `ACC` at most (92_eei_decisions.md
D12).
-/

namespace Sys2Proof.Machine

/-- `CRC2 b0, b1` (R70). -/
def execCrc2 (b0 b1 : Byte) (s : State) : Host.Outcome State Fault Refusal :=
  whenOperating s fun s =>
    let t := s.checksum b0 b1
    .next (t.answer (.checksum t.acc))

/-- `VREC b0, b1, c` (R71): a mismatch here is not counted. -/
def execVrec (b0 b1 c : Byte) (s : State) : Host.Outcome State Fault Refusal :=
  whenOperating s fun s =>
    let t := s.checksum b0 b1
    if t.acc = c then .next (t.answer (.record t.acc (some (be16s b0 b1))))
    else .next (t.answer (.record t.acc none))

/-- `RDACC` (R72). -/
def execRdacc (s : State) : Host.Outcome State Fault Refusal :=
  whenOperating s fun s => .next (s.answer (.checksum s.acc))

end Sys2Proof.Machine
end

