-- ==== Sys2Proof/Machine/Flags.lean ====
section
/-!
DEFINITION. The status flags and counters (10_state.md R20 to R23, R27) and the status register, a view of them (R28).
-/

namespace Sys2Proof.Machine

/-- A mask with bit `slot` written and the other bits kept. -/
def writeBit (m : Byte) (slot : Slot) (on : Bool) : Byte :=
  if on then m ||| (1#8 <<< slot.val) else m &&& ~~~(1#8 <<< slot.val)

/-- `MISMASK[slot] <- on` (R22). -/
def State.setMismatch (s : State) (slot : Slot) (on : Bool) : State :=
  { s with misMask := writeBit s.misMask slot on }

/-- `min(255, MISCNT + n)` (R23). -/
def addSaturating (cnt : Byte) (n : Nat) : Byte :=
  BitVec.ofNat 8 (min Config.misCntMax (cnt.toNat + n))

/-- `LEN` as the five bits of `STATUS` and of the `PUSH` response (R28, R59). -/
def State.lenBits (s : State) : BitVec 5 := BitVec.ofNat 5 s.len

/-- `STATUS` (R28): `PV`, `DONE`, a zero bit, `LEN`, `MISMASK`, `MISCNT`, from bit 23 down. -/
def State.status (s : State) : Word24 :=
  BitVec.ofBool s.pv ++ BitVec.ofBool s.done ++ (0 : BitVec 1) ++ s.lenBits ++ s.misMask ++ s.misCnt

end Sys2Proof.Machine
end

