-- ==== Sys2Proof/Machine/Frame.lean ====
section
/-!
DEFINITION. The frame family (41_frame.md): `FCLR`, `PUSH`, `DECODE`, `RDI`.
-/

namespace Sys2Proof.Machine

/-- `FCLR` (R77): the cells of `FB`, `ACC`, `MISCNT` and `PV` are not written. -/
def execFclr (s : State) : Host.Outcome State Fault Refusal :=
  whenOperating s fun s => .next (({ s with len := 0 }).clearResults.answer .nothing)

/-- The buffer half of `PUSH` (R78, R43): below 24 the byte is stored at `LEN`; at 24 and above nothing is stored and
`LEN` becomes 25. -/
def appendByte (s : State) (b : Byte) : Except Fault State :=
  if s.len ≤ 23 then
    match memWrite s s.len b with
    | .ok t => .ok { t with len := t.len + 1 }
    | .error e => .error e
  else .ok { s with len := Config.lenMax }

/-- `PUSH b` (R78): the response carries the new `LEN`. -/
def execPush (b : Byte) (s : State) : Host.Outcome State Fault Refusal :=
  whenOperating s fun s =>
    match appendByte s b with
    | .ok t => .next (t.clearResults.answer (.length t.lenBits))
    | .error e => .fault e

/-- One turn of the loop of `DECODE` on a record that has been read (R79): the state after it, and 1 when the slot
mismatched, a `ChecksumMismatch` event (R104). -/
def decodeSlot (s : State) (slot : Slot) (r : Record) : State × Nat :=
  let t := s.checksum r.b0 r.b1
  if t.acc = r.c then ((t.setRes slot (some (be16s r.b0 r.b1))).setMismatch slot false, 0)
  else ((t.setRes slot none).setMismatch slot true, 1)

/-- The loop of `DECODE` over the slots in the order given, counting mismatches (R79). -/
def decodeSlots : List Slot → State → Nat → Except Fault (State × Nat)
  | [], s, n => .ok (s, n)
  | slot :: slots, s, n =>
    match readRecord s slot with
    | .error e => .error e
    | .ok r => decodeSlots slots (decodeSlot s slot r).1 (n + (decodeSlot s slot r).2)

/-- `DECODE` (R79): the length check comes before any cell is read (R84, R106). -/
def execDecode (s : State) : Host.Outcome State Fault Refusal :=
  whenOperating s fun s =>
    if s.len = Config.frameBytes then
      match decodeSlots allSlots s 0 with
      | .ok (t, n) =>
        .next (({ t with misCnt := addSaturating t.misCnt n, done := true }).answer (.mismatches t.misMask))
      | .error e => .fault e
    else raisePreconditionViolation s

/-- `RDI s` (R80). -/
def execRdi (slot : Slot) (s : State) : Host.Outcome State Fault Refusal :=
  whenOperating s fun s => .next (s.answer (.integer s.res[slot]))

end Sys2Proof.Machine
end

