-- ==== Sys2Proof/Machine/Scaler.lean ====
section
/-!
DEFINITION. The scaler family (42_scaler.md): `SCL`, `RDS`. Neither writes any state of the block.
-/

namespace Sys2Proof.Machine

/-- `SCL s, v` (R88): the operand is always present. -/
def execScl (slot : Slot) (v : Raw) (s : State) : Host.Outcome State Fault Refusal :=
  whenOperating s fun s => .next (s.answer (.scaled (some (scale slot v))))

/-- `RDS s` (R89): absent stays absent (R93). -/
def execRds (slot : Slot) (s : State) : Host.Outcome State Fault Refusal :=
  whenOperating s fun s => .next (s.answer (.scaled (s.res[slot].map (scale slot))))

end Sys2Proof.Machine
end

