-- ==== Sys2Proof/Machine/System.lean ====
section
/-!
DEFINITION. The system family (43_system.md): `RST` and `RDST`, the only commands carried out while the block is faulted
(R97).
-/

namespace Sys2Proof.Machine

/-- `RST` (R94): reset, in every state, faulted or not. -/
def execRst (s : State) : Host.Outcome State Fault Refusal := .next (s.resetBlock.answer .nothing)

/-- `RDST` (R95): read `STATUS`, in every state, faulted or not; nothing is written. -/
def execRdst (s : State) : Host.Outcome State Fault Refusal := .next (s.answer (.status s.status))

end Sys2Proof.Machine
end

