-- ==== Sys2Proof/Machine/Dispatch.lean ====
section
/-!
DEFINITION. The dispatch: one arm per command, each one call of that command's meaning.
-/

namespace Sys2Proof.Machine

def exec (i : Instr) (s : State) : Host.Outcome State Fault Refusal :=
  match i with
  | .rst => Sys2Proof.Machine.execRst s
  | .rdst => Sys2Proof.Machine.execRdst s
  | .crc2 b0 b1 => Sys2Proof.Machine.execCrc2 b0 b1 s
  | .vrec b0 b1 c => Sys2Proof.Machine.execVrec b0 b1 c s
  | .rdacc => Sys2Proof.Machine.execRdacc s
  | .fclr => Sys2Proof.Machine.execFclr s
  | .push b => Sys2Proof.Machine.execPush b s
  | .decode => Sys2Proof.Machine.execDecode s
  | .rdi slot => Sys2Proof.Machine.execRdi slot s
  | .scl slot v => Sys2Proof.Machine.execScl slot v s
  | .rds slot => Sys2Proof.Machine.execRds slot s

end Sys2Proof.Machine
end

