-- ==== Sys2Proof/Machine/Step.lean ====
section
/-!
DEFINITION. One step of the block: it takes what the host does next and carries it out whole (20_memory.md R46). A
command word is checked for legality first, and the meaning of a legal command checks the faulted condition
(30_encoding.md R64).
-/

namespace Sys2Proof.Machine

/-- One step (R14, R64). With nothing issued by the host the block changes nothing. -/
def step (s : State) : Host.Outcome State Fault Refusal :=
  match s.takeInput with
  | none => idle s
  | some (.resetPin, t) => resetPinAsserted t
  | some (.command w, t) =>
    match decode w with
    | .ok i => exec i t
    | .error _ => refuseIllegal t

/-- The state in which the host issues the word `w` as its very next command (notes/assumptions/2.md). -/
def State.withFetchWord (s : State) (nbits w : Nat) : State :=
  s.placeCommand (BitVec.ofNat 32 (w % 2 ^ nbits))

end Sys2Proof.Machine
end

