-- ==== Sys2Proof/Machine/Assembler.lean ====
section
/-!
DEFINITION. The assembler notation of 30_encoding.md R65: mnemonics, slot names, the operands of a command line in R63's
order, and the two pseudo-commands.
-/

namespace Sys2Proof

/-- The mnemonic of a command (R58, R65). -/
def Instr.mnemonic : Instr → String
  | .rst => "RST"
  | .rdst => "RDST"
  | .crc2 _ _ => "CRC2"
  | .vrec _ _ _ => "VREC"
  | .rdacc => "RDACC"
  | .fclr => "FCLR"
  | .push _ => "PUSH"
  | .decode => "DECODE"
  | .rdi _ => "RDI"
  | .scl _ _ => "SCL"
  | .rds _ => "RDS"

/-- The operands of a command line as numbers, in R63's order; `v` of `SCL` as a signed number (R65). -/
def Instr.operandNumbers : Instr → List Int
  | .rst => []
  | .rdst => []
  | .crc2 b0 b1 => [b0.toNat, b1.toNat]
  | .vrec b0 b1 c => [b0.toNat, b1.toNat, c.toNat]
  | .rdacc => []
  | .fclr => []
  | .push b => [b.toNat]
  | .decode => []
  | .rdi slot => [slot.val]
  | .scl slot v => [slot.val, v.toInt]
  | .rds slot => [slot.val]

/-- A command line: the mnemonic, then the operands separated by commas, in decimal (R65). -/
def Instr.assembly (i : Instr) : String :=
  match i.operandNumbers with
  | [] => i.mnemonic
  | ns => i.mnemonic ++ " " ++ ", ".intercalate (ns.map toString)

/-- The slots by their assembler names (R65). -/
def slotNames : List (String × Slot) :=
  [("pm1", 0), ("pm25", 1), ("pm4", 2), ("pm10", 3), ("rh", 4), ("temp", 5), ("voc", 6), ("nox", 7)]

/-- The pseudo-command `PUSHREC b0, b1, c` (R65). -/
def pushRec (b0 b1 c : Byte) : List Instr := [.push b0, .push b1, .push c]

/-- The pseudo-command `FRAME x0, x1, ...` for any number of bytes (R65). -/
def frame (bytes : List Byte) : List Instr := .fclr :: bytes.map .push

end Sys2Proof
end

