-- ==== Sys2Proof/Machine/Response.lean ====
section
/-!
DEFINITION. The response word (30_encoding.md R56) packed from a response: status code (R57), present flag and payload
(R59).
-/

namespace Sys2Proof.Machine

/-- The status code `st` of a response (R57). -/
def Response.statusCode : Response → BitVec 4
  | .ok _ => 0
  | .errIllegal => 1
  | .errFault => 2
  | .faultPv => 3

/-- The flag `P` of an `OK` response (R59): 1 when the payload is a value that exists. -/
def Answer.present : Answer → Bool
  | .nothing => false
  | .status _ => false
  | .checksum _ => false
  | .record _ value => value.isSome
  | .length _ => false
  | .mismatches _ => false
  | .integer v => v.isSome
  | .scaled v => v.isSome

/-- The payload of an `OK` response (R59); the value bits of an absent value are 0. -/
def Answer.payload : Answer → Word24
  | .nothing => 0
  | .status v => v
  | .checksum b => b.setWidth 24
  | .record crc value => crc ++ value.getD 0
  | .length v => v.setWidth 24
  | .mismatches m => m.setWidth 24
  | .integer v => (v.getD 0).setWidth 24
  | .scaled v => v.getD 0

/-- The flag `P` of a response (R56): 0 whenever the status is not 0. -/
def Response.present : Response → Bool
  | .ok a => a.present
  | .errIllegal => false
  | .errFault => false
  | .faultPv => false

/-- The payload of a response (R56): 0 whenever the status is not 0. -/
def Response.payload : Response → Word24
  | .ok a => a.payload
  | .errIllegal => 0
  | .errFault => 0
  | .faultPv => 0

/-- The layout of R56: `st` in bits 31:28, three zero bits, `P` in bit 24, the payload in bits 23:0. -/
def respondWord (st : BitVec 4) (p : Bool) (payload : Word24) : Word32 :=
  st ++ (0 : BitVec 3) ++ BitVec.ofBool p ++ payload

/-- The response word of a response (R56). -/
def Response.word (r : Response) : Word32 := respondWord r.statusCode r.present r.payload

end Sys2Proof.Machine
end

