-- ==== Sys2Proof/Safety.lean ====
section
/-!
DEFINITION. What counts as a safe state and a safe run, in the terms the statements use: the invariants of 10_state.md
R29, the frame a buffer holds, and a list of commands carried out one after the other.
-/

namespace Sys2Proof.Machine

/-- Every cell of `FB` below `n` holds a byte. -/
def Memory.holdsBelow (m : Memory) (n : Nat) : Prop := ∀ a < n, (m.read a).isSome

/-- The buffer holds the record `f slot` at the place of each slot (R37). -/
def HoldsFrame (s : State) (f : Slot → Record) : Prop :=
  ∀ slot : Slot, s.fb.read (3 * slot.val) = some (f slot).b0 ∧
    s.fb.read (3 * slot.val + 1) = some (f slot).b1 ∧ s.fb.read (3 * slot.val + 2) = some (f slot).c

/-- A record's checksum does not match (R98, R104). -/
def Record.mismatches (r : Record) : Bool := crc8Two r.b0 r.b1 != r.c

/-- I1 (R29). -/
def State.LenBounded (s : State) : Prop := s.len ≤ 25

/-- I2 (R29): a faulted block shows no result. -/
def State.FaultedShowsNothing (s : State) : Prop :=
  s.pv = true → s.done = false ∧ (∀ slot : Slot, s.res[slot] = none) ∧ s.misMask = 0

/-- I3 (R29): before a `DECODE` has completed the block shows no result. -/
def State.UndecodedShowsNothing (s : State) : Prop :=
  s.done = false → (∀ slot : Slot, s.res[slot] = none) ∧ s.misMask = 0

/-- I4 (R29): `DONE` means the results are the decoding of the 24 bytes the buffer holds. -/
def State.DoneMeansDecoded (s : State) : Prop :=
  s.done = true → s.pv = false ∧ s.len = 24 ∧ ∃ f : Slot → Record, HoldsFrame s f ∧
    ∀ slot : Slot, s.res[slot] = decodeRecord (f slot).b0 (f slot).b1 (f slot).c ∧
      (s.misMask.getLsbD slot.val = true ↔ s.res[slot] = none)

/-- I5 (R29), as far as one state shows it: every cell below `min(LEN, 24)` holds a byte, so `DECODE` never reads a cell
that holds none. -/
def State.PushedCellsHold (s : State) : Prop := s.fb.holdsBelow (min s.len 24)

/-- The invariants of R29 together, and the canonical form of the frame buffer's cells. -/
structure State.Inv (s : State) : Prop where
  memory : s.fb.wf
  lenBounded : s.LenBounded
  faulted : s.FaultedShowsNothing
  undecoded : s.UndecodedShowsNothing
  decoded : s.DoneMeansDecoded
  pushed : s.PushedCellsHold

/-- The commands of a list carried out in order, each from the state the one before left, stopping at the first that
gives no next state. -/
def execAll : List Instr → State → Host.Outcome State Fault Refusal
  | [], s => .next s
  | i :: is, s =>
    match exec i s with
    | .next t => execAll is t
    | .fault e => .fault e
    | .refused r => .refused r

/-- The command, carried out in the state, ends with one response, whose word is `w`. -/
def RespondsWith (i : Instr) (s : State) (w : Word32) : Prop :=
  ∃ t r, exec i s = .next t ∧ t.responses = r :: s.responses ∧ r.word = w

/-- A faulted block refuses the command and changes nothing but the response (R101). -/
def RefusedWhileFaulted (i : Instr) : Prop :=
  ∀ s : State, s.pv = true → exec i s = .next { s with responses := .errFault :: s.responses }

/-- In every state, faulted or not, the block refuses the word as illegal and changes nothing but the response (R100). -/
def AnsweredIllegal (w : Word32) : Prop :=
  ∀ (s : State) (rest : List HostInput), s.pending = .command w :: rest →
    step s = .next { s with pending := rest, responses := .errIllegal :: s.responses }

/-- Two states that differ at most in cells of `FB` that no command can observe: those at or above `LEN` (R17, R30). -/
def SameButHiddenCells (s t : State) : Prop :=
  s = { t with fb := s.fb } ∧ ∀ a < min s.len 24, s.fb.read a = t.fb.read a

end Sys2Proof.Machine
end

