-- ==== Sys2Proof/Certificates/Slice0/Obligations.lean ====
section
/-!
DEFINITION. The statements for the provers. Each docstring names the rule of spec/ the statement comes from. Where a
meaning of a command is stated as `exec i s = .next { s with … }`, the record update is the command's result AND its frame:
every field it does not name is unchanged.
-/

open Sys2Proof Sys2Proof.Machine

/-! ### Encoding -/

/-- Words written out from the encodings of 30_encoding.md R53 and R58 (95_test_vectors.md sections 2 and 3) decode to the
commands they stand for. -/
def Obligations.SpecWordsDecode : Prop :=
  decode 0x01000000 = .ok .rst ∧ decode 0x02000000 = .ok .rdst ∧
  decode 0x4000BEEF = .ok (.crc2 0xBE 0xEF) ∧ decode 0x41BEEF92 = .ok (.vrec 0xBE 0xEF 0x92) ∧
  decode 0x42000000 = .ok .rdacc ∧ decode 0x50000000 = .ok .fclr ∧ decode 0x5100005A = .ok (.push 0x5A) ∧
  decode 0x52000000 = .ok .decode ∧ decode 0x53000005 = .ok (.rdi 5) ∧
  decode 0x6005FBE6 = .ok (.scl 5 0xFBE6) ∧ decode 0x61000004 = .ok (.rds 4)

/-- R53, with R52: where each operand stands in the 32-bit word, and that a "must be 0" bit makes the word illegal. -/
def Obligations.OperandFormats : Prop :=
  ∀ w : Word32,
    (w.extractLsb' 24 8 = 0x01 → decode w = .ok .rst ∧ w.extractLsb' 0 24 = 0 ∨
      (∃ e, decode w = .error e) ∧ w.extractLsb' 0 24 ≠ 0) ∧
    (w.extractLsb' 24 8 = 0x02 → decode w = .ok .rdst ∧ w.extractLsb' 0 24 = 0 ∨
      (∃ e, decode w = .error e) ∧ w.extractLsb' 0 24 ≠ 0) ∧
    (w.extractLsb' 24 8 = 0x42 → decode w = .ok .rdacc ∧ w.extractLsb' 0 24 = 0 ∨
      (∃ e, decode w = .error e) ∧ w.extractLsb' 0 24 ≠ 0) ∧
    (w.extractLsb' 24 8 = 0x50 → decode w = .ok .fclr ∧ w.extractLsb' 0 24 = 0 ∨
      (∃ e, decode w = .error e) ∧ w.extractLsb' 0 24 ≠ 0) ∧
    (w.extractLsb' 24 8 = 0x52 → decode w = .ok .decode ∧ w.extractLsb' 0 24 = 0 ∨
      (∃ e, decode w = .error e) ∧ w.extractLsb' 0 24 ≠ 0) ∧
    (w.extractLsb' 24 8 = 0x51 → decode w = .ok (.push (w.extractLsb' 0 8)) ∧ w.extractLsb' 8 16 = 0 ∨
      (∃ e, decode w = .error e) ∧ w.extractLsb' 8 16 ≠ 0) ∧
    (w.extractLsb' 24 8 = 0x53 →
      (∃ slot : Slot, slot.val = (w.extractLsb' 0 3).toNat ∧ decode w = .ok (.rdi slot)) ∧ w.extractLsb' 3 21 = 0 ∨
      (∃ e, decode w = .error e) ∧ w.extractLsb' 3 21 ≠ 0) ∧
    (w.extractLsb' 24 8 = 0x61 →
      (∃ slot : Slot, slot.val = (w.extractLsb' 0 3).toNat ∧ decode w = .ok (.rds slot)) ∧ w.extractLsb' 3 21 = 0 ∨
      (∃ e, decode w = .error e) ∧ w.extractLsb' 3 21 ≠ 0) ∧
    (w.extractLsb' 24 8 = 0x40 →
      decode w = .ok (.crc2 (w.extractLsb' 8 8) (w.extractLsb' 0 8)) ∧ w.extractLsb' 16 8 = 0 ∨
      (∃ e, decode w = .error e) ∧ w.extractLsb' 16 8 ≠ 0) ∧
    (w.extractLsb' 24 8 = 0x41 →
      decode w = .ok (.vrec (w.extractLsb' 16 8) (w.extractLsb' 8 8) (w.extractLsb' 0 8))) ∧
    (w.extractLsb' 24 8 = 0x60 →
      (∃ slot : Slot, slot.val = (w.extractLsb' 16 3).toNat ∧ decode w = .ok (.scl slot (w.extractLsb' 0 16))) ∧
        w.extractLsb' 19 5 = 0 ∨
      (∃ e, decode w = .error e) ∧ w.extractLsb' 19 5 ≠ 0)

/-- R58: a word is the command of a row exactly when `w & mask == match`; the rows are disjoint; a word that matches no
row is illegal. -/
def Obligations.DecoderFollowsOpcodeMap : Prop :=
  (∀ (w : Word32) (row : OpRow), row ∈ opcodeMap →
    (w &&& row.mask = row.pattern ↔
      ∃ i, decode w = .ok i ∧ i.mnemonic = row.mnemonic ∧ i.opcode = row.opcode ∧ i.format = row.format)) ∧
  (∀ (w : Word32) (row row' : OpRow), row ∈ opcodeMap → row' ∈ opcodeMap → w &&& row.mask = row.pattern →
    w &&& row'.mask = row'.pattern → row = row') ∧
  (∀ w : Word32, (∃ e, decode w = .error e) ↔ ∀ row ∈ opcodeMap, w &&& row.mask ≠ row.pattern)

/-- R63: encoding is the inverse of decoding on legal commands, distinct commands have distinct words, and the number of
legal words is 17367317. -/
def Obligations.EncodeAndDecodeAreInverse : Prop :=
  (∀ i : Instr, decode (encode i) = .ok i) ∧
  (∀ (w : Word32) (i : Instr), decode w = .ok i → encode i = w) ∧
  (∀ i j : Instr, encode i = encode j → i = j) ∧
  Nat.card { w : Word32 // ∃ i, decode w = .ok i } = 17367317

/-- R60: every other opcode value is reserved, 245 of the 256, and a word with one is illegal whatever its operand and
whether or not the block is faulted; the all-zero and the all-ones word are illegal. -/
def Obligations.ReservedOpcodesAreIllegal : Prop :=
  (∀ w : Word32, (opcodeOf w).toNat = 0x00 ∨ 0x03 ≤ (opcodeOf w).toNat ∧ (opcodeOf w).toNat ≤ 0x3F ∨
      0x43 ≤ (opcodeOf w).toNat ∧ (opcodeOf w).toNat ≤ 0x4F ∨ 0x54 ≤ (opcodeOf w).toNat ∧ (opcodeOf w).toNat ≤ 0x5F ∨
      0x62 ≤ (opcodeOf w).toNat ↔ decode w = .error (.reservedOpcode (opcodeOf w))) ∧
  (∀ (w : Word32) (op : Byte), decode w = .error (.reservedOpcode op) → AnsweredIllegal w) ∧
  ((List.range 256).filter fun n => !(commandOpcodes.contains (BitVec.ofNat 8 n))).length = 245 ∧
  AnsweredIllegal 0x00000000 ∧ AnsweredIllegal 0xFFFFFFFF

/-- R61: a command's opcode with a 1 in a "must be 0" bit of its operand format is illegal in the same way. -/
def Obligations.ReservedOperandBitsAreIllegal : Prop :=
  (∀ (w : Word32) (row : OpRow), row ∈ opcodeMap → opcodeOf w = row.opcode →
    operandOf w &&& row.format.reserved ≠ 0 →
    decode w = .error (.reservedOperandBits (opcodeOf w) (operandOf w)) ∧ AnsweredIllegal w) ∧
  AnsweredIllegal 0x52000001 ∧ AnsweredIllegal 0x53000008

/-- R56: the fields of the response word, and that a status other than 0 leaves `P` and the payload 0. -/
def Obligations.ResponseWordLayout : Prop :=
  ∀ r : Response, r.word.extractLsb' 28 4 = r.statusCode ∧ r.word.extractLsb' 25 3 = 0 ∧
    r.word.getLsbD 24 = r.present ∧ r.word.extractLsb' 0 24 = r.payload ∧
    (r.statusCode ≠ 0 → r.present = false ∧ r.payload = 0)

/-- R59: `P` and the payload of each command's `OK` response, as the response word. -/
def Obligations.OkResponseOfEachCommand : Prop :=
  ∀ s : State, s.pv = false →
    RespondsWith .rst s (respondWord 0 false 0) ∧
    RespondsWith .rdst s (respondWord 0 false s.status) ∧
    (∀ b0 b1, RespondsWith (.crc2 b0 b1) s (respondWord 0 false ((crc8Two b0 b1).setWidth 24))) ∧
    (∀ b0 b1 c, RespondsWith (.vrec b0 b1 c) s
      (if crc8Two b0 b1 = c then respondWord 0 true (crc8Two b0 b1 ++ b0 ++ b1)
        else respondWord 0 false (crc8Two b0 b1 ++ (0 : BitVec 16)))) ∧
    RespondsWith .rdacc s (respondWord 0 false (s.acc.setWidth 24)) ∧
    RespondsWith .fclr s (respondWord 0 false 0) ∧
    (∀ b, ∃ n, 1 ≤ n ∧ n ≤ 25 ∧ (∃ t, exec (.push b) s = .next t ∧ t.len = n) ∧
      RespondsWith (.push b) s (respondWord 0 false (BitVec.ofNat 24 n))) ∧
    (s.len = 24 → s.fb.holdsBelow 24 → ∃ t, exec .decode s = .next t ∧
      RespondsWith .decode s (respondWord 0 false (t.misMask.setWidth 24))) ∧
    (∀ slot : Slot, RespondsWith (.rdi slot) s
      (match s.res[slot] with
        | some v => respondWord 0 true (v.setWidth 24)
        | none => respondWord 0 false 0)) ∧
    (∀ (slot : Slot) (v : Raw), RespondsWith (.scl slot v) s (respondWord 0 true (scale slot v))) ∧
    (∀ slot : Slot, RespondsWith (.rds slot) s
      (match s.res[slot] with
        | some v => respondWord 0 true (scale slot v)
        | none => respondWord 0 false 0))

/-! ### The step -/

/-- When the next command word decodes to `i`, the step is `exec i` at the state in which that word has been taken from
the host (20_memory.md R46, 30_encoding.md R64). -/
def Obligations.StepRunsTheDecodedCommand : Prop :=
  ∀ (s : State) (w : Word32) (rest : List HostInput) (i : Instr), s.pending = .command w :: rest →
    decode w = .ok i → step s = exec i { s with pending := rest }

/-- The other steps: with nothing issued by the host the block changes nothing (00_scope.md R14, 20_memory.md R47; log
entry 2), and a reset pin has the effect of `RST` without a response (70_reset_and_hazards.md R123; log entry 7). -/
def Obligations.StepWithoutACommand : Prop :=
  (∀ s : State, s.pending = [] → step s = .next s) ∧
  (∀ (s : State) (rest : List HostInput), s.pending = .resetPin :: rest →
    ∃ t, step s = .next t ∧ exec .rst { s with pending := rest } =
      .next { t with responses := .ok .nothing :: s.responses } ∧ t.responses = s.responses)

/-- R64: the execution of any word, in full. -/
def Obligations.ExecutionOfAnyWord : Prop :=
  ∀ (s : State) (w : Word32) (rest : List HostInput), s.pending = .command w :: rest →
    (∀ e, decode w = .error e → step s = .next { s with pending := rest, responses := .errIllegal :: s.responses }) ∧
    (∀ i, decode w = .ok i → s.pv = true → i ≠ .rst → i ≠ .rdst →
      step s = .next { s with pending := rest, responses := .errFault :: s.responses }) ∧
    (∀ i, decode w = .ok i → s.pv = false ∨ i = .rst ∨ i = .rdst → step s = exec i { s with pending := rest } ∧
      ∀ t, step s = .next t → ∃ r, t.responses = r :: s.responses ∧
        (r.statusCode = 0 ∨ i = .decode ∧ r.statusCode = 3))

/-- R100: a word that is no command is refused in every state, faulted or not; no state but the response changes. -/
def Obligations.IllegalWordIsRefusedInEveryState : Prop :=
  (∀ (w : Word32) (e : Illegal), decode w = .error e → AnsweredIllegal w) ∧ Response.errIllegal.word = 0x10000000

/-- R101: a faulted block refuses every command but `RST` and `RDST`, changing no state. -/
def Obligations.FaultedBlockRefusesCommands : Prop :=
  (∀ (i : Instr) (s : State), s.pv = true → i ≠ .rst → i ≠ .rdst →
    exec i s = .next { s with responses := .errFault :: s.responses }) ∧ Response.errFault.word = 0x20000000

/-- R97: `RST` and `RDST` are the only commands carried out while faulted, and `0x01000001` is illegal in every state. -/
def Obligations.OnlySystemCommandsRunWhileFaulted : Prop :=
  (∀ (i : Instr) (s : State), s.pv = true →
    ((∃ t a, exec i s = .next t ∧ t.responses = .ok a :: s.responses) ↔ i = .rst ∨ i = .rdst)) ∧
  AnsweredIllegal 0x01000001

/-- R55: every command word, legal or not, produces exactly one response, and there is no response without a command.
The premise is the invariant of R29. -/
def Obligations.OneResponsePerCommandWord : Prop :=
  (∀ (s : State) (w : Word32) (rest : List HostInput), s.Inv → s.pending = .command w :: rest →
    ∃ t r, step s = .next t ∧ t.responses = r :: s.responses ∧ t.pending = rest) ∧
  (∀ s t : State, step s = .next t → (∀ w rest, s.pending ≠ .command w :: rest) → t.responses = s.responses)

/-! ### The system family -/

/-- `RST` (R94): its word, the state it leaves, that it alone clears `PV` and `MISCNT`, and that it changes nothing in the
reset state. That the equation keeps the field `fb` is the model's choice (log entry 5, DESIGN CHOICE, unsafe): R94 says
only that `FB` is not cleared, and R17 and R32 leave its cells open. -/
def Obligations.RstResetsTheBlock : Prop :=
  encode .rst = 0x01000000 ∧
  (∀ s : State, exec .rst s = .next { s with
    acc := 0xFF, len := 0, res := Vector.replicate 8 none, done := false, pv := false, misMask := 0, misCnt := 0,
    responses := .ok .nothing :: s.responses }) ∧
  (∀ (i : Instr) (s t : State), i ≠ .rst → exec i s = .next t →
    (s.pv = true → t.pv = true) ∧ s.misCnt.toNat ≤ t.misCnt.toNat) ∧
  exec .rst State.reset = .next { State.reset with responses := [.ok .nothing] } ∧
  (∀ w : Word32, opcodeOf w = 0x01 → operandOf w ≠ 0 → AnsweredIllegal w)

/-- R95, with R28: `RDST`: its word, that it runs in every state and writes nothing, the bits of `STATUS`, and its value
while faulted. -/
def Obligations.RdstReadsStatus : Prop :=
  encode .rdst = 0x02000000 ∧
  (∀ s : State, exec .rdst s = .next { s with responses := .ok (.status s.status) :: s.responses }) ∧
  (∀ s : State, s.len ≤ 25 → s.status.toNat = s.pv.toNat * 2 ^ 23 + s.done.toNat * 2 ^ 22 + s.len * 2 ^ 16 +
    s.misMask.toNat * 2 ^ 8 + s.misCnt.toNat) ∧
  (∀ s : State, s.Inv → s.pv = true → s.status.toNat = 0x800000 + s.len * 2 ^ 16 + s.misCnt.toNat) ∧
  State.reset.status = 0 ∧
  (∀ w : Word32, opcodeOf w = 0x02 → operandOf w ≠ 0 → AnsweredIllegal w)

/-! ### The checksum family -/

/-- R66: one step of the accumulator, by the high bit and bit by bit. -/
def Obligations.CrcShiftBits : Prop :=
  ∀ a : Byte, (a.getLsbD 7 = true → crc8Shift a = a <<< 1 ^^^ 0x31) ∧ (a.getLsbD 7 = false → crc8Shift a = a <<< 1) ∧
    (crc8Shift a).getLsbD 7 = a.getLsbD 6 ∧ (crc8Shift a).getLsbD 6 = a.getLsbD 5 ∧
    (crc8Shift a).getLsbD 5 = (a.getLsbD 4 ^^ a.getLsbD 7) ∧ (crc8Shift a).getLsbD 4 = (a.getLsbD 3 ^^ a.getLsbD 7) ∧
    (crc8Shift a).getLsbD 3 = a.getLsbD 2 ∧ (crc8Shift a).getLsbD 2 = a.getLsbD 1 ∧
    (crc8Shift a).getLsbD 1 = a.getLsbD 0 ∧ (crc8Shift a).getLsbD 0 = a.getLsbD 7

/-- R67 and R68: a byte is XORed in whole and eight steps follow; two bytes are absorbed from `0xFF`, `b0` first, with no
final XOR. -/
def Obligations.CrcOfTwoBytes : Prop :=
  (∀ a b : Byte, crc8Absorb a b = crc8Shift^[8] (a ^^^ b)) ∧
  (∀ b0 b1 : Byte, crc8Two b0 b1 = crc8Absorb (crc8Absorb 0xFF b0) b1)

/-- R69, first bullet: linearity over exclusive or (in both arguments of `crc8_absorb` together), and zero to zero. -/
def Obligations.CrcIsLinear : Prop :=
  (∀ x y : Byte, crc8Shift (x ^^^ y) = crc8Shift x ^^^ crc8Shift y) ∧
  (∀ a a' b b' : Byte, crc8Absorb (a ^^^ a') (b ^^^ b') = crc8Absorb a b ^^^ crc8Absorb a' b') ∧
  crc8Absorb 0x00 0x00 = 0x00

/-- R69, second bullet: absorbing a record's third byte brings the accumulator to zero exactly when the record is valid. -/
def Obligations.CrcZeroResidue : Prop :=
  ∀ b0 b1 c : Byte, (crc8Absorb (crc8Two b0 b1) c = 0x00 ↔ c = crc8Two b0 b1) ∧
    (crc8Absorb (crc8Two b0 b1) c = 0x00 ↔ (decodeRecord b0 b1 c).isSome = true)

/-- R69, third and fifth bullets: bijective in each byte, so a changed data byte makes a valid record invalid; exactly 256
inputs have checksum 0. -/
def Obligations.CrcIsBijectiveInEachByte : Prop :=
  (∀ b0 : Byte, Function.Bijective fun b1 => crc8Two b0 b1) ∧
  (∀ b1 : Byte, Function.Bijective fun b0 => crc8Two b0 b1) ∧
  (∀ b0 b1 b' : Byte, b' ≠ b0 → decodeRecord b' b1 (crc8Two b0 b1) = none) ∧
  (∀ b0 b1 b' : Byte, b' ≠ b1 → decodeRecord b0 b' (crc8Two b0 b1) = none) ∧
  Nat.card { p : Byte × Byte // crc8Two p.1 p.2 = 0x00 } = 256 ∧
  crc8Two 0xFF 0x00 = 0x00 ∧ crc8Two 0x00 0xAC = 0x00 ∧ crc8Two 0x00 0x00 = 0x81

/-- R69, fourth bullet: changing any one, two or three bits of a valid record makes it invalid. -/
def Obligations.CrcDetectsThreeBitErrors : Prop :=
  ∀ (b0 b1 : Byte) (e : BitVec 24), 1 ≤ (List.range 24).countP (fun k => e.getLsbD k) →
    (List.range 24).countP (fun k => e.getLsbD k) ≤ 3 →
    decodeRecord (b0 ^^^ e.extractLsb' 16 8) (b1 ^^^ e.extractLsb' 8 8) (crc8Two b0 b1 ^^^ e.extractLsb' 0 8) = none

/-- R70: `CRC2 b0, b1`. -/
def Obligations.Crc2ComputesTheChecksum : Prop :=
  (∀ b0 b1 : Byte, encode (.crc2 b0 b1) = 0x40000000#32 ||| b0.setWidth 32 <<< 8 ||| b1.setWidth 32) ∧
  (∀ (s : State) (b0 b1 : Byte), s.pv = false → exec (.crc2 b0 b1) s = .next { s with
    acc := crc8Two b0 b1, responses := .ok (.checksum (crc8Two b0 b1)) :: s.responses }) ∧
  (∀ b0 b1 : Byte, RefusedWhileFaulted (.crc2 b0 b1)) ∧
  (∀ w : Word32, opcodeOf w = 0x40 → w.extractLsb' 16 8 ≠ 0 → AnsweredIllegal w) ∧
  crc8Two 0x00 0x00 = 0x81 ∧ crc8Two 0xFF 0xFF = 0xAC ∧
  encode (.crc2 0xBE 0xEF) = 0x4000BEEF ∧ crc8Two 0xBE 0xEF = 0x92

/-- R71: `VREC b0, b1, c`. -/
def Obligations.VrecValidatesOneRecord : Prop :=
  (∀ b0 b1 c : Byte, encode (.vrec b0 b1 c) =
    0x41000000#32 ||| b0.setWidth 32 <<< 16 ||| b1.setWidth 32 <<< 8 ||| c.setWidth 32) ∧
  (∀ (s : State) (b0 b1 c : Byte), s.pv = false → exec (.vrec b0 b1 c) s = .next { s with
    acc := crc8Two b0 b1,
    responses := .ok (.record (crc8Two b0 b1) (if crc8Two b0 b1 = c then some (b0 ++ b1) else none)) :: s.responses }) ∧
  (∀ b0 b1 c : Byte, RefusedWhileFaulted (.vrec b0 b1 c)) ∧
  (∀ w : Word32, opcodeOf w = 0x41 → ∃ b0 b1 c, decode w = .ok (.vrec b0 b1 c)) ∧
  decodeRecord 0x00 0x00 0x00 = none ∧ decodeRecord 0xFF 0x00 0x00 = some 0xFF00 ∧
  (∀ s : State, s.pv = false → RespondsWith (.vrec 0xBE 0xEF 0x92) s 0x0192BEEF ∧
    RespondsWith (.vrec 0xBE 0xEF 0x93) s 0x00920000)

/-- R72: `RDACC`, also straight after reset and after a `DECODE` that did not fault. -/
def Obligations.RdaccReadsTheAccumulator : Prop :=
  encode .rdacc = 0x42000000 ∧
  (∀ s : State, s.pv = false → exec .rdacc s = .next { s with responses := .ok (.checksum s.acc) :: s.responses }) ∧
  RefusedWhileFaulted .rdacc ∧
  (∀ w : Word32, opcodeOf w = 0x42 → operandOf w ≠ 0 → AnsweredIllegal w) ∧
  RespondsWith .rdacc State.reset 0x000000FF ∧
  (∀ (s t : State) (f : Slot → Record), s.pv = false → s.len = 24 → HoldsFrame s f → exec .decode s = .next t →
    RespondsWith .rdacc t (respondWord 0 false ((crc8Two (f 7).b0 (f 7).b1).setWidth 24))) ∧
  (∀ s t : State, s.pv = false → s.len ≠ 24 → exec .decode s = .next t → t.acc = s.acc)

/-! ### The frame family -/

/-- R75: the big-endian two's-complement reading of two bytes. -/
def Obligations.RecordValueIsBigEndianSigned : Prop :=
  (∀ b0 b1 : Byte, (be16s b0 b1).toInt =
    if b0.getLsbD 7 = false then 256 * (b0.toNat : Int) + b1.toNat
    else 256 * (b0.toNat : Int) + b1.toNat - 65536) ∧
  (∀ b0 b1 : Byte, -32768 ≤ (be16s b0 b1).toInt ∧ (be16s b0 b1).toInt ≤ 32767) ∧
  (be16s 0x80 0x00).toInt = -32768 ∧ (be16s 0x7F 0xFF).toInt = 32767 ∧ (be16s 0xFF 0xFF).toInt = -1 ∧
  (be16s 0x00 0x00).toInt = 0

/-- `FCLR` (R77). That the equation keeps the field `fb` is the model's choice (log entry 5, DESIGN CHOICE, unsafe): R77
says that `FB` is not written, and R17 lets the cells hold any value after it. -/
def Obligations.FclrStartsANewFrame : Prop :=
  encode .fclr = 0x50000000 ∧
  (∀ s : State, s.pv = false → exec .fclr s = .next { s with
    len := 0, res := Vector.replicate 8 none, done := false, misMask := 0,
    responses := .ok .nothing :: s.responses }) ∧
  RefusedWhileFaulted .fclr ∧
  (∀ w : Word32, opcodeOf w = 0x50 → operandOf w ≠ 0 → AnsweredIllegal w) ∧
  (∀ s t : State, s.pv = false → exec .fclr s = .next t → ∀ slot : Slot,
    RespondsWith (.rdi slot) t 0x00000000 ∧ RespondsWith (.rds slot) t 0x00000000)

/-- R78, with 20_memory.md R43: `PUSH b`. -/
def Obligations.PushAppendsOneByte : Prop :=
  (∀ b : Byte, encode (.push b) = 0x51000000#32 ||| b.setWidth 32) ∧
  (∀ (s : State) (b : Byte), s.pv = false → s.len ≤ 23 → ∃ m : Memory,
    (∀ a, m.read a = if a = s.len then some b else s.fb.read a) ∧
    exec (.push b) s = .next { s with
      fb := m, len := s.len + 1, res := Vector.replicate 8 none, done := false, misMask := 0,
      responses := .ok (.length (BitVec.ofNat 5 (s.len + 1))) :: s.responses }) ∧
  (∀ (s : State) (b : Byte), s.pv = false → 24 ≤ s.len → exec (.push b) s = .next { s with
    len := 25, res := Vector.replicate 8 none, done := false, misMask := 0,
    responses := .ok (.length 25) :: s.responses }) ∧
  (∀ b : Byte, RefusedWhileFaulted (.push b)) ∧
  (∀ w : Word32, opcodeOf w = 0x51 → w.extractLsb' 8 16 ≠ 0 → AnsweredIllegal w)

/-- R79: `DECODE`. `f` names the records the buffer holds. -/
def Obligations.DecodeValidatesTheFrame : Prop :=
  encode .decode = 0x52000000 ∧
  (∀ (s : State) (f : Slot → Record), s.pv = false → s.len = 24 → HoldsFrame s f → ∃ m : Byte,
    (∀ slot : Slot, m.getLsbD slot.val = true ↔ crc8Two (f slot).b0 (f slot).b1 ≠ (f slot).c) ∧
    exec .decode s = .next { s with
      acc := crc8Two (f 7).b0 (f 7).b1
      res := Vector.ofFn fun slot =>
        if crc8Two (f slot).b0 (f slot).b1 = (f slot).c then some ((f slot).b0 ++ (f slot).b1) else none
      misMask := m
      misCnt := BitVec.ofNat 8 (min 255 (s.misCnt.toNat + allSlots.countP fun slot => m.getLsbD slot.val))
      done := true
      responses := .ok (.mismatches m) :: s.responses }) ∧
  (∀ s : State, s.pv = false → s.len ≠ 24 → exec .decode s = .next { s with
    pv := true, res := Vector.replicate 8 none, done := false, misMask := 0,
    responses := .faultPv :: s.responses }) ∧
  RefusedWhileFaulted .decode ∧
  (∀ w : Word32, opcodeOf w = 0x52 → operandOf w ≠ 0 → AnsweredIllegal w)

/-- R103: the entry of `PreconditionViolation`: what it writes, and that `ACC`, `FB`, `LEN` and `MISCNT` are not written. -/
def Obligations.PreconditionViolationEntry : Prop :=
  (∀ s : State, s.pv = false → s.len ≠ 24 → exec .decode s = .next { s with
    pv := true, res := Vector.replicate 8 none, done := false, misMask := 0,
    responses := .faultPv :: s.responses }) ∧
  Response.faultPv.word = 0x30000000

/-- R102: the fault is raised by `DECODE`, only by `DECODE`, exactly when `LEN` is not 24. -/
def Obligations.PreconditionViolationCause : Prop :=
  ∀ (i : Instr) (s t : State), s.pv = false → exec i s = .next t →
    ((t.responses = .faultPv :: s.responses ↔ i = .decode ∧ s.len ≠ 24) ∧
      (t.pv = true ↔ i = .decode ∧ s.len ≠ 24))

/-- R80: `RDI s`. While `DONE` is 0 (before any `DECODE`, after `FCLR`, after a `PUSH`) every slot answers absent; that
clause has the invariant of R29 as its premise. -/
def Obligations.RdiReadsTheInteger : Prop :=
  (∀ slot : Slot, encode (.rdi slot) = 0x53000000#32 ||| BitVec.ofNat 32 slot.val) ∧
  (∀ (s : State) (slot : Slot), s.pv = false →
    exec (.rdi slot) s = .next { s with responses := .ok (.integer s.res[slot]) :: s.responses }) ∧
  (∀ (s : State) (slot : Slot), s.Inv → s.pv = false → s.done = false → RespondsWith (.rdi slot) s 0x00000000) ∧
  (∀ slot : Slot, RefusedWhileFaulted (.rdi slot)) ∧
  (∀ w : Word32, opcodeOf w = 0x53 → w.extractLsb' 3 21 ≠ 0 → AnsweredIllegal w) ∧
  (Response.ok (.integer (some 0x0000))).word = 0x01000000 ∧ (Response.ok (.integer none)).word = 0x00000000 ∧
  (Response.ok (.integer (some 0xFBE6))).word = 0x0100FBE6

/-- R81: a slot's result and mask bit depend on its three bytes and on nothing else. -/
def Obligations.SlotsAreIndependent : Prop :=
  ∀ (s s' t t' : State) (f f' : Slot → Record), s.pv = false → s'.pv = false → s.len = 24 → s'.len = 24 →
    HoldsFrame s f → HoldsFrame s' f' → exec .decode s = .next t → exec .decode s' = .next t' →
    ∀ slot : Slot, f slot = f' slot →
      t.res[slot] = t'.res[slot] ∧ t.misMask.getLsbD slot.val = t'.misMask.getLsbD slot.val

/-- R82: the round trip, for one record and for a whole frame. -/
def Obligations.FrameRoundTrip : Prop :=
  (∀ v : Raw, decodeRecord (v.extractLsb' 8 8) (v.extractLsb' 0 8)
    (crc8Two (v.extractLsb' 8 8) (v.extractLsb' 0 8)) = some v) ∧
  (∀ (s : State) (v : Slot → Raw), s.pv = false → s.len = 24 → HoldsFrame s (fun slot => encodeRecord (v slot)) →
    ∃ t, exec .decode s = .next t ∧ (∀ slot : Slot, t.res[slot] = some (v slot)) ∧ t.misMask = 0x00 ∧
      t.misCnt = s.misCnt)

/-- R83, first part: one flipped bit in one checksum byte of a frame of valid records makes exactly that slot absent. -/
def Obligations.CorruptedChecksumMakesOneSlotAbsent : Prop :=
  (∀ (s : State) (v : Slot → Raw) (slot : Slot) (k : Fin 8), s.pv = false → s.len = 24 →
    HoldsFrame s (fun j => if j = slot then { encodeRecord (v j) with c := (encodeRecord (v j)).c ^^^ 1#8 <<< k.val }
      else encodeRecord (v j)) →
    ∃ t, exec .decode s = .next t ∧ t.res[slot] = none ∧ (∀ j : Slot, j ≠ slot → t.res[j] = some (v j)) ∧
      t.misMask = 1#8 <<< slot.val ∧ t.misCnt.toNat = min 255 (s.misCnt.toNat + 1)) ∧
  decodeRecord 0x00 0x00 0x81 = some 0 ∧ decodeRecord 0x00 0x01 0xB0 = some 1

/-- R85: a second `DECODE` writes the same results and counts its mismatches again. -/
def Obligations.SecondDecodeRepeats : Prop :=
  ∀ (s t : State), s.pv = false → s.len = 24 → s.fb.holdsBelow 24 → exec .decode s = .next t →
    t.len = 24 ∧ exec .decode t = .next { t with
      misCnt := BitVec.ofNat 8 (min 255 (t.misCnt.toNat + allSlots.countP fun slot => t.misMask.getLsbD slot.val)),
      responses := .ok (.mismatches t.misMask) :: t.responses }

/-- R86, with 90_conflicts.md C1: the all-zero frame decodes to eight absent slots, and eight copies of `00 00 81` to
eight present zeros. -/
def Obligations.AllZeroFrameIsAbsent : Prop :=
  (∀ s : State, s.pv = false → s.len = 24 → HoldsFrame s (fun _ => ⟨0x00, 0x00, 0x00⟩) →
    ∃ t, exec .decode s = .next t ∧ (∀ slot : Slot, t.res[slot] = none) ∧ t.misMask = 0xFF ∧
      t.misCnt.toNat = min 255 (s.misCnt.toNat + 8) ∧ t.responses = .ok (.mismatches 0xFF) :: s.responses) ∧
  (∀ s : State, s.pv = false → s.len = 24 → HoldsFrame s (fun _ => ⟨0x00, 0x00, 0x81⟩) →
    ∃ t, exec .decode s = .next t ∧ (∀ slot : Slot, t.res[slot] = some 0) ∧ t.misMask = 0x00 ∧
      t.misCnt = s.misCnt)

/-- R18 and 20_memory.md R39, with I5 of R29: pushing bytes into an empty buffer leaves `LEN` their number, 25 standing
for more than 24, the `k`-th pushed byte at address `k - 1`, and every later cell as it was. -/
def Obligations.PushedBytesStandInOrder : Prop :=
  ∀ (bytes : List Byte) (s : State), s.pv = false → s.len = 0 →
    ∃ t, execAll (bytes.map .push) s = .next t ∧ t.len = min bytes.length 25 ∧
      (∀ k, k < min bytes.length 24 → t.fb.read k = bytes[k]?) ∧
      (∀ a, min bytes.length 24 ≤ a → t.fb.read a = s.fb.read a) ∧ t.pv = false ∧ t.misCnt = s.misCnt ∧ t.acc = s.acc

/-- R84: the length precondition: a frame of exactly 24 bytes is decoded whole, one of any other length raises the fault
and leaves no slot present, whatever the buffer held before. -/
def Obligations.FrameOfOtherLengthIsNeverDecoded : Prop :=
  ∀ (bytes : List Byte) (s : State), s.pv = false → ∃ t, execAll (frame bytes ++ [.decode]) s = .next t ∧
    (bytes.length = 24 → t.done = true ∧ t.pv = false ∧ ∀ slot : Slot,
      t.res[slot] = decodeRecord (bytes.getD (3 * slot.val) 0) (bytes.getD (3 * slot.val + 1) 0)
        (bytes.getD (3 * slot.val + 2) 0) ∧
      (t.misMask.getLsbD slot.val = true ↔ t.res[slot] = none)) ∧
    (bytes.length ≠ 24 → t.done = false ∧ t.pv = true ∧ t.misMask = 0 ∧ (∀ slot : Slot, t.res[slot] = none) ∧
      ∃ rest, t.responses = .faultPv :: rest)

/-! ### The scaler family -/

/-- R87: the scaled value is the exact product, and a thousandth of it is the raw value over the slot's divisor. -/
def Obligations.ScaleIsTheExactProduct : Prop :=
  (∀ (slot : Slot) (v : Raw), (scale slot v).toInt = v.toInt * (Config.mul slot : Int)) ∧
  (∀ (slot : Slot) (v : Raw), ((scale slot v).toInt : Rat) / 1000 = (v.toInt : Rat) / (Config.div slot : Rat)) ∧
  allSlots.map Config.mul = [100, 100, 100, 100, 10, 5, 100, 100] ∧
  allSlots.map Config.div = [10, 10, 10, 10, 100, 200, 10, 10] ∧
  (∀ slot : Slot, Config.mul slot * Config.div slot = 1000)

/-- R91: no overflow of 24 bits, the sign and zero kept, the ranges per multiplier, and injectivity. -/
def Obligations.ScaleNeverOverflows : Prop :=
  (∀ (slot : Slot) (v : Raw), |v.toInt * (Config.mul slot : Int)| ≤ 3276800 ∧ |(scale slot v).toInt| < 2 ^ 23) ∧
  (∀ (slot : Slot) (v : Raw), (scale slot v).toInt.sign = v.toInt.sign ∧ (scale slot v = 0 ↔ v = 0)) ∧
  (∀ (slot : Slot) (v : Raw), Config.mul slot = 100 →
    -3276800 ≤ (scale slot v).toInt ∧ (scale slot v).toInt ≤ 3276700 ∧ (100 : Int) ∣ (scale slot v).toInt) ∧
  (∀ v : Raw, -327680 ≤ (scale 4 v).toInt ∧ (scale 4 v).toInt ≤ 327670 ∧ (10 : Int) ∣ (scale 4 v).toInt) ∧
  (∀ v : Raw, -163840 ≤ (scale 5 v).toInt ∧ (scale 5 v).toInt ≤ 163835 ∧ (5 : Int) ∣ (scale 5 v).toInt) ∧
  (∀ slot : Slot, Function.Injective (scale slot))

/-- R90: whatever a consumer's rounding is, it gives the same value on a thousandth of the payload as on the quotient the
document divides. -/
def Obligations.FloatContractForEveryFormat : Prop :=
  ∀ (fl : Rat → Rat) (slot : Slot) (v : Raw),
    fl (physicalValue slot v) = fl ((v.toInt : Rat) / (Config.div slot : Rat))

/-- R88: `SCL s, v`. -/
def Obligations.SclScalesItsOperand : Prop :=
  (∀ (slot : Slot) (v : Raw),
    encode (.scl slot v) = 0x60000000#32 ||| BitVec.ofNat 32 slot.val <<< 16 ||| v.setWidth 32) ∧
  (∀ (s : State) (slot : Slot) (v : Raw), s.pv = false →
    exec (.scl slot v) s = .next { s with responses := .ok (.scaled (some (scale slot v))) :: s.responses }) ∧
  (∀ (slot : Slot) (v : Raw), RefusedWhileFaulted (.scl slot v)) ∧
  (∀ w : Word32, opcodeOf w = 0x60 → w.extractLsb' 19 5 ≠ 0 → AnsweredIllegal w) ∧
  (∀ slot : Slot, scale slot 0 = 0) ∧
  (∀ slot : Slot, Config.mul slot = 100 → scale slot 0x8000 = 0xCE0000 ∧ scale slot 0x7FFF = 0x31FF9C) ∧
  (∀ s : State, s.pv = false → RespondsWith (.scl 0 10) s 0x010003E8 ∧ RespondsWith (.scl 5 (-1050)) s 0x01FFEB7E)

/-- R89, with R93: `RDS s`: a present value is scaled, an absent one stays absent. Before any `DECODE` every slot is
absent; that clause has the invariant of R29 as its premise. -/
def Obligations.RdsReadsTheScaledValue : Prop :=
  (∀ slot : Slot, encode (.rds slot) = 0x61000000#32 ||| BitVec.ofNat 32 slot.val) ∧
  (∀ (s : State) (slot : Slot) (v : Raw), s.pv = false → s.res[slot] = some v →
    exec (.rds slot) s = .next { s with responses := .ok (.scaled (some (scale slot v))) :: s.responses }) ∧
  (∀ (s : State) (slot : Slot), s.pv = false → s.res[slot] = none →
    exec (.rds slot) s = .next { s with responses := .ok (.scaled none) :: s.responses }) ∧
  (∀ (s : State) (slot : Slot), s.Inv → s.pv = false → s.done = false → RespondsWith (.rds slot) s 0x00000000) ∧
  (∀ slot : Slot, RefusedWhileFaulted (.rds slot)) ∧
  (∀ w : Word32, opcodeOf w = 0x61 → w.extractLsb' 3 21 ≠ 0 → AnsweredIllegal w) ∧
  (Response.ok (.scaled none)).word = 0x00000000 ∧ (∀ slot : Slot, (Response.ok (.scaled (some (scale slot 0)))).word = 0x01000000) ∧
  (∀ s : State, s.pv = false → s.res[4] = some 0x11D7 → RespondsWith (.rds 4) s 0x0100B266)

/-! ### The whole machine -/

/-- R32 and R124: the values after reset, that `RST` leaves the same values from every state, and that the block is ready
for any command immediately after reset. -/
def Obligations.ResetStateValues : Prop :=
  State.reset.acc = 0xFF ∧ State.reset.len = 0 ∧ (∀ slot : Slot, State.reset.res[slot] = none) ∧
  State.reset.done = false ∧ State.reset.pv = false ∧ State.reset.misMask = 0x00 ∧ State.reset.misCnt = 0 ∧
  State.reset.status = 0x000000 ∧
  (∀ s : State, ∃ t, exec .rst s = .next t ∧ State.reset = { t with
    fb := State.reset.fb, pending := State.reset.pending, responses := State.reset.responses }) ∧
  (∀ i : Instr, ∃ t r, exec i State.reset = .next t ∧ t.responses = [r])

/-- R125: the first commands after reset. -/
def Obligations.FirstCommandsAfterReset : Prop :=
  RespondsWith .rdst State.reset 0x00000000 ∧ RespondsWith .rdacc State.reset 0x000000FF ∧
  (∀ slot : Slot, RespondsWith (.rdi slot) State.reset 0x00000000 ∧
    RespondsWith (.rds slot) State.reset 0x00000000) ∧
  RespondsWith .decode State.reset 0x30000000 ∧
  (∀ b : Byte, ∃ t, exec (.push b) State.reset = .next t ∧ t.fb.read 0 = some b ∧ t.len = 1 ∧
    RespondsWith (.push b) State.reset 0x00000001) ∧
  (∀ b0 b1 : Byte, RespondsWith (.crc2 b0 b1) State.reset (respondWord 0 false ((crc8Two b0 b1).setWidth 24))) ∧
  (∀ b0 b1 c : Byte, RespondsWith (.vrec b0 b1 c) State.reset
    (if crc8Two b0 b1 = c then respondWord 0 true (crc8Two b0 b1 ++ b0 ++ b1)
      else respondWord 0 false (crc8Two b0 b1 ++ (0 : BitVec 16)))) ∧
  (∀ (slot : Slot) (v : Raw), RespondsWith (.scl slot v) State.reset (respondWord 0 true (scale slot v)))

/-- The invariants of R29 hold in the state after reset, whatever the host has issued. -/
def Obligations.ResetMeetsTheInvariants : Prop :=
  ∀ pending : List HostInput, State.Inv { State.reset with pending := pending }

/-- R29: every step keeps the invariants I1 to I5, and the canonical form of the frame buffer's cells. -/
def Obligations.EveryStepKeepsTheInvariants : Prop :=
  ∀ s t : State, s.Inv → step s = .next t → t.Inv

/-- R135 and R98: from a state that meets the invariants of R29 every step completes: the model's own fault (log entry 4)
is never raised. -/
def Obligations.EveryStepCompletesUnderTheInvariants : Prop :=
  ∀ s : State, s.Inv → ∃ t, step s = .next t ∧ t.Inv

/-- 20_memory.md R44 and log entry 4 (the model's choice): the only stop of the model is `DECODE` at `LEN` 24 with a cell
that holds no value; no command accesses an address outside the buffer, and none is refused. -/
def Obligations.OnlyStopIsAnUnwrittenCell : Prop :=
  (∀ (i : Instr) (s : State), (∃ t, exec i s = .next t) ∨
    i = .decode ∧ s.pv = false ∧ s.len = 24 ∧ ∃ a < 24, s.fb.read a = none ∧ exec i s = .fault (.unwrittenCell a)) ∧
  (∀ s : State, s.pv = false → s.len = 24 → ¬s.fb.holdsBelow 24 →
    ∃ a < 24, s.fb.read a = none ∧ exec .decode s = .fault (.unwrittenCell a))

/-- 10_state.md R33: what each command writes, and that a refused command writes nothing but the response. That `RST`
keeps `fb` is the model's choice (log entry 5, DESIGN CHOICE, unsafe), which R33 does not give: there `RST` writes
everything, to the values of R32, and R32 leaves `FB` unspecified. The same log entry covers `FCLR`, whose row of R33 does
not list `FB`, since R17 lets the cells hold any value after it. -/
def Obligations.CommandsWriteOnlyTheirState : Prop :=
  (∀ (i : Instr) (s t : State), s.pv = true → i ≠ .rst → i ≠ .rdst → exec i s = .next t →
    t = { s with responses := t.responses }) ∧
  (∀ (i : Instr) (s t : State), s.pv = false → exec i s = .next t → t.pending = s.pending ∧
    match i with
    | .rst => t.fb = s.fb
    | .rdst => t = { s with responses := t.responses }
    | .crc2 _ _ => t = { s with acc := t.acc, responses := t.responses }
    | .vrec _ _ _ => t = { s with acc := t.acc, responses := t.responses }
    | .rdacc => t = { s with responses := t.responses }
    | .fclr => t = { s with
        len := t.len, res := t.res, done := t.done, misMask := t.misMask, responses := t.responses }
    | .push _ => t = { s with
        fb := t.fb, len := t.len, res := t.res, done := t.done, misMask := t.misMask, responses := t.responses } ∧
        ∀ a, (a ≠ s.len ∨ 24 ≤ s.len) → t.fb.read a = s.fb.read a
    | .decode => (s.len = 24 → t = { s with
          acc := t.acc, res := t.res, done := t.done, misMask := t.misMask, misCnt := t.misCnt,
          responses := t.responses }) ∧
        (s.len ≠ 24 → t = { s with
          pv := t.pv, res := t.res, done := t.done, misMask := t.misMask, responses := t.responses })
    | .rdi _ => t = { s with responses := t.responses }
    | .scl _ _ => t = { s with responses := t.responses }
    | .rds _ => t = { s with responses := t.responses })

/-- R16: `ACC` is written by `CRC2`, `VREC`, `DECODE` when it does not fault, and `RST`, and read only by `RDACC`: no other
command's result depends on the value it held. -/
def Obligations.AccumulatorIsWrittenAndReadAsSaid : Prop :=
  (∀ (i : Instr) (s t : State), exec i s = .next t → t.acc ≠ s.acc →
    i = .rst ∨ s.pv = false ∧ ((∃ b0 b1, i = .crc2 b0 b1) ∨ (∃ b0 b1 c, i = .vrec b0 b1 c) ∨
      i = .decode ∧ s.len = 24)) ∧
  (∀ (s t : State) (b0 b1 : Byte), s.pv = false → exec (.crc2 b0 b1) s = .next t → t.acc = crc8Two b0 b1) ∧
  (∀ (s t : State) (b0 b1 c : Byte), s.pv = false → exec (.vrec b0 b1 c) s = .next t → t.acc = crc8Two b0 b1) ∧
  (∀ (s t : State) (b0 b1 : Byte), s.pv = false → s.len = 24 → s.fb.read 21 = some b0 → s.fb.read 22 = some b1 →
    exec .decode s = .next t → t.acc = crc8Two b0 b1) ∧
  (∀ (i : Instr) (s : State) (a : Byte), i ≠ .rdacc →
    (∃ t b, exec i s = .next t ∧ exec i { s with acc := a } = .next { t with acc := b }) ∨
    (∃ e, exec i s = .fault e ∧ exec i { s with acc := a } = .fault e))

/-- R23: the only commands that change `MISCNT` are a `DECODE` that does not fault, which adds its mismatches and
saturates, and `RST`, which writes 0; `RDST` returns it. -/
def Obligations.MismatchCounterRule : Prop :=
  (∀ (i : Instr) (s t : State), exec i s = .next t →
    t.misCnt = if i = .rst then 0
      else if i = .decode ∧ s.pv = false ∧ s.len = 24 then
        BitVec.ofNat 8 (min 255 (s.misCnt.toNat + allSlots.countP fun slot => t.misMask.getLsbD slot.val))
      else s.misCnt) ∧
  (∀ s : State, s.status.extractLsb' 0 8 = s.misCnt)

/-- R27: which command sets and clears `PV`, `DONE` and the bits of `MISMASK`, their reset values, and that no command but
`RDST` depends on `DONE` or `MISMASK`. -/
def Obligations.StatusFlagRules : Prop :=
  (∀ (i : Instr) (s t : State), exec i s = .next t →
    (t.pv = true ↔ i ≠ .rst ∧ (s.pv = true ∨ i = .decode ∧ s.len ≠ 24)) ∧
    (i = .rst → t.done = false ∧ t.misMask = 0) ∧
    (i ≠ .rst → s.pv = true → t.done = s.done ∧ t.misMask = s.misMask) ∧
    (s.pv = false → i = .fclr ∨ (∃ b, i = .push b) ∨ i = .decode ∧ s.len ≠ 24 → t.done = false ∧ t.misMask = 0) ∧
    (s.pv = false → i = .decode → s.len = 24 → t.done = true ∧ ∀ f, HoldsFrame s f → ∀ slot : Slot,
      (t.misMask.getLsbD slot.val = true ↔ crc8Two (f slot).b0 (f slot).b1 ≠ (f slot).c)) ∧
    (i ≠ .rst → i ≠ .fclr → (∀ b, i ≠ .push b) → i ≠ .decode → t.done = s.done ∧ t.misMask = s.misMask)) ∧
  (∀ (i : Instr) (s : State) (d : Bool) (m : Byte), i ≠ .rdst →
    (∃ t d' m', exec i s = .next t ∧
      exec i { s with done := d, misMask := m } = .next { t with done := d', misMask := m' }) ∨
    (∃ e, exec i s = .fault e ∧ exec i { s with done := d, misMask := m } = .fault e)) ∧
  (∀ s : State, s.status.getLsbD 23 = s.pv ∧ s.status.getLsbD 22 = s.done ∧
    s.status.extractLsb' 8 8 = s.misMask) ∧
  State.reset.pv = false ∧ State.reset.done = false ∧ State.reset.misMask = 0

/-- R108: the only way out of the faulted condition is reset, which discards the frame, the results and the counter; while
it lasts no second fault is reported. R108 names `RST` and power-on; that a reset pin is a way out of it too is the model's
choice (log entry 7, DESIGN CHOICE), from R123, which speaks of an implementation that has one. -/
def Obligations.OnlyResetLeavesTheFaultedCondition : Prop :=
  ∀ s t : State, s.pv = true → step s = .next t →
    (t.pv = false ↔ (∃ w rest, s.pending = .command w :: rest ∧ decode w = .ok .rst) ∨
      ∃ rest, s.pending = .resetPin :: rest) ∧
    (t.pv = false → t.len = 0 ∧ (∀ slot : Slot, t.res[slot] = none) ∧ t.misMask = 0 ∧ t.misCnt = 0 ∧ t.acc = 0xFF) ∧
    t.responses ≠ .faultPv :: s.responses

/-- R17 and R30: the cells of `FB` at or above `LEN` are hidden: two states that differ only there answer every word with
the same response and stay alike, step by step. -/
def Obligations.HiddenCellsCannotBeObserved : Prop :=
  ∀ s t : State, SameButHiddenCells s t →
    (∃ s' t', step s = .next s' ∧ step t = .next t' ∧ SameButHiddenCells s' t' ∧ s'.responses = t'.responses) ∨
    (∃ e, step s = .fault e ∧ step t = .fault e)

/-- R127 and R128: a `PUSH` makes every slot read absent, and a `PUSH` on a full buffer makes the next `DECODE` fault. -/
def Obligations.PushInvalidatesResults : Prop :=
  ∀ (s : State) (b : Byte), s.pv = false → ∃ t, exec (.push b) s = .next t ∧
    (∀ slot : Slot, RespondsWith (.rdi slot) t 0x00000000 ∧ RespondsWith (.rds slot) t 0x00000000) ∧
    (24 ≤ s.len → RespondsWith .decode t 0x30000000)
end

