-- ==== Sys2Proof/Laws/PerInstr.lean ====
section
/-!
SUPPORT. Statements made per command: the word a command encodes to is well-formed, by the opcode map of 30_encoding.md
R58 and by the reserved bits of its operand format (R53, R61).
-/

namespace Sys2Proof

theorem opcodeOf_append (op : Byte) (x : Word24) : opcodeOf (op ++ x) = op := by
  unfold opcodeOf
  exact BitVec.extractLsb'_append_eq_left

theorem operandOf_append (op : Byte) (x : Word24) : operandOf (op ++ x) = x := by
  unfold operandOf
  exact BitVec.extractLsb'_append_eq_right

@[simp] theorem opcodeOf_encode (i : Instr) : opcodeOf (encode i) = i.opcode := opcodeOf_append _ _

@[simp] theorem operandOf_encode (i : Instr) : operandOf (encode i) = i.operand := operandOf_append _ _

/-- A word is its opcode above its operand (R52). -/
theorem word_eq (w : Word32) : w = opcodeOf w ++ operandOf w := by
  unfold opcodeOf operandOf
  apply BitVec.eq_of_getLsbD_eq
  intro i hi
  rw [BitVec.getLsbD_append]
  simp only [BitVec.getLsbD_extractLsb', Nat.zero_add]
  split
  · simp [*]
  · rw [show 24 + (i - 24) = i by omega]
    simp [show i - 24 < 8 by omega]

/-- A word matches a row exactly when its opcode and its operand match their parts of the row's mask and pattern. -/
theorem OpRow.matches_append (row : OpRow) (op : Byte) (x : Word24) :
    row.matches (op ++ x) = true ↔
      op &&& opcodeOf row.mask = opcodeOf row.pattern ∧ x &&& operandOf row.mask = operandOf row.pattern := by
  unfold OpRow.matches
  rw [beq_iff_eq]
  conv_lhs => rw [word_eq row.mask, word_eq row.pattern, BitVec.and_append]
  constructor
  · intro h
    exact ⟨by simpa [opcodeOf_append] using congrArg opcodeOf h,
      by simpa [operandOf_append] using congrArg operandOf h⟩
  · rintro ⟨h1, h2⟩
    rw [h1, h2]

namespace Laws.EncodesLegal

/-- The encoded word is well-formed, and no reserved bit of its operand is set. -/
def Statement (i : Instr) : Prop :=
  wellFormedWord (encode i) = true ∧ i.format.accepts (operandOf (encode i)) = true

/-! The opcode half of the four rows whose operand varies. -/

theorem opcode_matches_2 : (0x40 : Byte) &&& opcodeOf opcodeMap[2].mask = opcodeOf opcodeMap[2].pattern := by
  decide

theorem opcode_matches_3 : (0x41 : Byte) &&& opcodeOf opcodeMap[3].mask = opcodeOf opcodeMap[3].pattern := by
  decide

theorem opcode_matches_6 : (0x51 : Byte) &&& opcodeOf opcodeMap[6].mask = opcodeOf opcodeMap[6].pattern := by
  decide

theorem opcode_matches_9 : (0x60 : Byte) &&& opcodeOf opcodeMap[9].mask = opcodeOf opcodeMap[9].pattern := by
  decide

theorem rst : Statement .rst := by constructor <;> decide

theorem rdst : Statement .rdst := by constructor <;> decide

theorem rdacc : Statement .rdacc := by constructor <;> decide

theorem fclr : Statement .fclr := by constructor <;> decide

theorem decode : Statement .decode := by constructor <;> decide

theorem crc2 (b0 b1 : Byte) : Statement (.crc2 b0 b1) := by
  have hx : ∀ m : BitVec 8, (0#8 ++ b0 ++ b1 : Word24) &&& (m ++ 0#8 ++ 0#8 : Word24) = 0 := by
    intro m
    erw [BitVec.and_append, BitVec.and_append]
    simp
  refine ⟨List.any_eq_true.2 ⟨opcodeMap[2], by decide, ?_⟩, ?_⟩
  · exact (OpRow.matches_append _ _ _).2 ⟨opcode_matches_2, hx 0xFF#8⟩
  · rw [operandOf_encode]
    exact beq_iff_eq.2 (hx 0xFF#8)

theorem vrec (b0 b1 c : Byte) : Statement (.vrec b0 b1 c) := by
  have hx : (b0 ++ b1 ++ c : Word24) &&& 0#24 = 0 := by simp
  refine ⟨List.any_eq_true.2 ⟨opcodeMap[3], by decide, ?_⟩, ?_⟩
  · exact (OpRow.matches_append _ _ _).2 ⟨opcode_matches_3, hx⟩
  · rw [operandOf_encode]
    exact beq_iff_eq.2 hx

theorem push (b : Byte) : Statement (.push b) := by
  have hx : (0#16 ++ b : Word24) &&& (0xFFFF#16 ++ 0#8 : Word24) = 0 := by
    erw [BitVec.and_append]
    simp
  refine ⟨List.any_eq_true.2 ⟨opcodeMap[6], by decide, ?_⟩, ?_⟩
  · exact (OpRow.matches_append _ _ _).2 ⟨opcode_matches_6, hx⟩
  · rw [operandOf_encode]
    exact beq_iff_eq.2 hx

theorem rdi (slot : Slot) : Statement (.rdi slot) := by
  fin_cases slot <;> constructor <;> decide

theorem scl (slot : Slot) (v : Raw) : Statement (.scl slot v) := by
  have hx : (0#5 ++ slotBits slot ++ v : Word24) &&& (0x1F#5 ++ 0#3 ++ 0#16 : Word24) = 0 := by
    erw [BitVec.and_append, BitVec.and_append]
    simp
  refine ⟨List.any_eq_true.2 ⟨opcodeMap[9], by decide, ?_⟩, ?_⟩
  · exact (OpRow.matches_append _ _ _).2 ⟨opcode_matches_9, hx⟩
  · rw [operandOf_encode]
    exact beq_iff_eq.2 hx

theorem rds (slot : Slot) : Statement (.rds slot) := by
  fin_cases slot <;> constructor <;> decide

end Laws.EncodesLegal

end Sys2Proof
end

