-- ==== Sys2Proof/Laws/Decode.lean ====
section
/-!
SUPPORT. The fields of an operand, format by format (30_encoding.md R53), and the decoder on a word given as its opcode
above its operand.
-/

namespace Sys2Proof

/-- A field of the operand is the same field of the word (R52). -/
theorem operandOf_extract (w : Word32) {lo n : Nat} (h : lo + n ≤ 24) :
    (operandOf w).extractLsb' lo n = w.extractLsb' lo n := by
  unfold operandOf
  apply BitVec.eq_of_getLsbD_eq
  intro i hi
  simp only [BitVec.getLsbD_extractLsb']
  simp [hi, show lo + i < 24 by omega]

@[simp] theorem slotOfBits_slotBits (slot : Slot) : slotOfBits (slotBits slot) = slot := rfl

@[simp] theorem slotBits_slotOfBits (v : BitVec 3) : slotBits (slotOfBits v) = v := rfl

theorem slotOfBits_val (v : BitVec 3) : (slotOfBits v).val = v.toNat := rfl

/-- The fields of formats `W2` and `W3`. -/
theorem threeBytes_fields (a b c : Byte) :
    (a ++ b ++ c : Word24).extractLsb' 16 8 = a ∧ (a ++ b ++ c : Word24).extractLsb' 8 8 = b ∧
      (a ++ b ++ c : Word24).extractLsb' 0 8 = c := by
  refine ⟨?_, ?_, ?_⟩ <;> apply BitVec.eq_of_getLsbD_eq <;> intro i hi <;>
    rw [BitVec.getLsbD_extractLsb', BitVec.getLsbD_append, BitVec.getLsbD_append]
  · simp only [hi, decide_true, Bool.true_and, show ¬16 + i < 8 by omega, show ¬16 + i - 8 < 8 by omega, if_false]
    congr 1
    omega
  · simp only [hi, decide_true, Bool.true_and, show ¬8 + i < 8 by omega, show 8 + i - 8 < 8 by omega, if_false, if_true]
    congr 1
    omega
  · simp [hi]

/-- The fields of format `B`. -/
theorem byteOperand_fields (b : Byte) :
    (0#16 ++ b : Word24).extractLsb' 8 16 = 0 ∧ (0#16 ++ b : Word24).extractLsb' 0 8 = b :=
  ⟨BitVec.extractLsb'_append_eq_left, BitVec.extractLsb'_append_eq_right⟩

/-- The fields of format `S`. -/
theorem slotOperand_fields (k : BitVec 3) :
    (0#21 ++ k : Word24).extractLsb' 3 21 = 0 ∧ (0#21 ++ k : Word24).extractLsb' 0 3 = k :=
  ⟨BitVec.extractLsb'_append_eq_left, BitVec.extractLsb'_append_eq_right⟩

/-- The fields of format `SV`. -/
theorem slotValueOperand_fields (k : BitVec 3) (v : Raw) :
    (0#5 ++ k ++ v : Word24).extractLsb' 19 5 = 0 ∧ (0#5 ++ k ++ v : Word24).extractLsb' 16 3 = k ∧
      (0#5 ++ k ++ v : Word24).extractLsb' 0 16 = v := by
  refine ⟨?_, ?_, BitVec.extractLsb'_append_eq_right⟩ <;> apply BitVec.eq_of_getLsbD_eq <;> intro i hi <;>
    rw [BitVec.getLsbD_extractLsb', BitVec.getLsbD_append, BitVec.getLsbD_append]
  · simp only [hi, decide_true, Bool.true_and, show ¬19 + i < 16 by omega, show ¬19 + i - 16 < 3 by omega, if_false]
    simp
  · simp only [hi, decide_true, Bool.true_and, show ¬16 + i < 16 by omega, show 16 + i - 16 < 3 by omega, if_false,
      if_true]
    congr 1
    omega

end Sys2Proof
end

