-- ==== Sys2Proof/Laws/Memory.lean ====
section
/-!
SUPPORT. The laws of the frame buffer's cells: a read after a write, and the canonical form kept by every memory
operation.
-/

namespace Sys2Proof.Machine

@[simp] theorem Memory.read_nil (a : Nat) : Memory.read [] a = none := rfl

theorem Memory.read_write_same (m : Memory) (a : Nat) (b : Byte) : (m.write a b).read a = some b := by
  induction m with
  | nil => simp [Memory.write, Memory.read]
  | cons c m ih =>
    obtain ⟨k, v⟩ := c
    simp only [Memory.write]
    split
    · simp [Memory.read]
    · split
      · simp [Memory.read]
      · rename_i h
        simp [Memory.read, h, ih]

theorem Memory.read_write_other (m : Memory) {a a' : Nat} (b : Byte) (h : a' ≠ a) :
    (m.write a b).read a' = m.read a' := by
  induction m with
  | nil => simp [Memory.write, Memory.read, h]
  | cons c m ih =>
    obtain ⟨k, v⟩ := c
    simp only [Memory.write]
    split
    · simp [Memory.read, h]
    · split
      · rename_i hk
        subst hk
        simp [Memory.read, h]
      · simp [Memory.read, ih]

/-- What one write does to every read. -/
theorem Memory.read_write (m : Memory) (a a' : Nat) (b : Byte) :
    (m.write a b).read a' = if a' = a then some b else m.read a' := by
  split
  · rename_i h
    subst h
    exact m.read_write_same _ b
  · rename_i h
    exact m.read_write_other b h

theorem Memory.mem_write {m : Memory} {a : Nat} {b : Byte} {c : Host.Cell} (h : c ∈ m.write a b) :
    c = (a, b) ∨ c ∈ m := by
  induction m with
  | nil => simpa [Memory.write] using h
  | cons d m ih =>
    obtain ⟨k, v⟩ := d
    simp only [Memory.write] at h
    split at h
    · simpa using h
    · split at h
      · rcases List.mem_cons.1 h with h | h
        · exact .inl h
        · exact .inr (List.mem_cons_of_mem _ h)
      · rcases List.mem_cons.1 h with h | h
        · exact .inr (h ▸ List.mem_cons_self)
        · rcases ih h with h | h
          · exact .inl h
          · exact .inr (List.mem_cons_of_mem _ h)

/-- Writing a cell of the buffer keeps the canonical form. -/
theorem Memory.wf_write {m : Memory} {a : Nat} (b : Byte) (hm : m.wf) (ha : a < 24) : (m.write a b).wf := by
  refine ⟨?_, ?_⟩
  · obtain ⟨hp, -⟩ := hm
    induction m with
    | nil => simp [Memory.write]
    | cons c m ih =>
      obtain ⟨k, v⟩ := c
      obtain ⟨hk, ht⟩ := List.pairwise_cons.1 hp
      simp only [Memory.write]
      split
      · rename_i hlt
        refine List.pairwise_cons.2 ⟨?_, List.pairwise_cons.2 ⟨hk, ht⟩⟩
        intro d hd
        rcases List.mem_cons.1 hd with rfl | hd
        · exact hlt
        · exact Nat.lt_trans hlt (hk d hd)
      · split
        · rename_i h
          subst h
          exact List.pairwise_cons.2 ⟨hk, ht⟩
        · rename_i h1 h2
          refine List.pairwise_cons.2 ⟨?_, ih ht⟩
          intro d hd
          rcases Memory.mem_write hd with rfl | hd
          · exact Nat.lt_of_le_of_ne (Nat.le_of_not_lt h1) (Ne.symm h2)
          · exact hk d hd
  · intro c hc
    rcases Memory.mem_write hc with rfl | hc
    · exact ha
    · exact hm.2 c hc

/-- The buffer after reset is in canonical form. -/
theorem Memory.wf_reset : State.reset.fb.wf := by decide

/-- A write fills its cell and empties none. -/
theorem Memory.holdsBelow_write {m : Memory} {n : Nat} (b : Byte) (h : m.holdsBelow n) :
    (m.write n b).holdsBelow (n + 1) := by
  intro a ha
  rw [Memory.read_write]
  split
  · rfl
  · exact h a (by omega)

theorem Memory.holdsBelow_mono {m : Memory} {n k : Nat} (h : m.holdsBelow n) (hk : k ≤ n) : m.holdsBelow k :=
  fun a ha => h a (by omega)

end Sys2Proof.Machine
end

