-- ==== Sys2Proof/Laws/State.lean ====
section
/-!
SUPPORT. Each named update of State, field by field: one lemma per field per update, true by rfl, so that no proof unfolds a
record update.
-/

namespace Sys2Proof.Machine

/-! ### `State.setRes` -/

@[simp] theorem State.setRes_acc (s : State) (slot : Slot) (v : Option Raw) : (s.setRes slot v).acc = s.acc := rfl
@[simp] theorem State.setRes_fb (s : State) (slot : Slot) (v : Option Raw) : (s.setRes slot v).fb = s.fb := rfl
@[simp] theorem State.setRes_len (s : State) (slot : Slot) (v : Option Raw) : (s.setRes slot v).len = s.len := rfl
@[simp] theorem State.setRes_res (s : State) (slot : Slot) (v : Option Raw) :
    (s.setRes slot v).res = s.res.set slot v := rfl
@[simp] theorem State.setRes_done (s : State) (slot : Slot) (v : Option Raw) : (s.setRes slot v).done = s.done := rfl
@[simp] theorem State.setRes_pv (s : State) (slot : Slot) (v : Option Raw) : (s.setRes slot v).pv = s.pv := rfl
@[simp] theorem State.setRes_misMask (s : State) (slot : Slot) (v : Option Raw) :
    (s.setRes slot v).misMask = s.misMask := rfl
@[simp] theorem State.setRes_misCnt (s : State) (slot : Slot) (v : Option Raw) :
    (s.setRes slot v).misCnt = s.misCnt := rfl
@[simp] theorem State.setRes_pending (s : State) (slot : Slot) (v : Option Raw) :
    (s.setRes slot v).pending = s.pending := rfl
@[simp] theorem State.setRes_responses (s : State) (slot : Slot) (v : Option Raw) :
    (s.setRes slot v).responses = s.responses := rfl

/-! ### `State.clearResults` -/

@[simp] theorem State.clearResults_acc (s : State) : (s.clearResults).acc = s.acc := rfl
@[simp] theorem State.clearResults_fb (s : State) : (s.clearResults).fb = s.fb := rfl
@[simp] theorem State.clearResults_len (s : State) : (s.clearResults).len = s.len := rfl
@[simp] theorem State.clearResults_res (s : State) : (s.clearResults).res = Vector.replicate 8 none := rfl
@[simp] theorem State.clearResults_done (s : State) : (s.clearResults).done = false := rfl
@[simp] theorem State.clearResults_pv (s : State) : (s.clearResults).pv = s.pv := rfl
@[simp] theorem State.clearResults_misMask (s : State) : (s.clearResults).misMask = 0 := rfl
@[simp] theorem State.clearResults_misCnt (s : State) : (s.clearResults).misCnt = s.misCnt := rfl
@[simp] theorem State.clearResults_pending (s : State) : (s.clearResults).pending = s.pending := rfl
@[simp] theorem State.clearResults_responses (s : State) : (s.clearResults).responses = s.responses := rfl

/-! ### `State.respond` -/

@[simp] theorem State.respond_acc (s : State) (r : Response) : (s.respond r).acc = s.acc := rfl
@[simp] theorem State.respond_fb (s : State) (r : Response) : (s.respond r).fb = s.fb := rfl
@[simp] theorem State.respond_len (s : State) (r : Response) : (s.respond r).len = s.len := rfl
@[simp] theorem State.respond_res (s : State) (r : Response) : (s.respond r).res = s.res := rfl
@[simp] theorem State.respond_done (s : State) (r : Response) : (s.respond r).done = s.done := rfl
@[simp] theorem State.respond_pv (s : State) (r : Response) : (s.respond r).pv = s.pv := rfl
@[simp] theorem State.respond_misMask (s : State) (r : Response) : (s.respond r).misMask = s.misMask := rfl
@[simp] theorem State.respond_misCnt (s : State) (r : Response) : (s.respond r).misCnt = s.misCnt := rfl
@[simp] theorem State.respond_pending (s : State) (r : Response) : (s.respond r).pending = s.pending := rfl
@[simp] theorem State.respond_responses (s : State) (r : Response) : (s.respond r).responses = r :: s.responses := rfl

/-! ### `State.answer` -/

@[simp] theorem State.answer_acc (s : State) (a : Answer) : (s.answer a).acc = s.acc := rfl
@[simp] theorem State.answer_fb (s : State) (a : Answer) : (s.answer a).fb = s.fb := rfl
@[simp] theorem State.answer_len (s : State) (a : Answer) : (s.answer a).len = s.len := rfl
@[simp] theorem State.answer_res (s : State) (a : Answer) : (s.answer a).res = s.res := rfl
@[simp] theorem State.answer_done (s : State) (a : Answer) : (s.answer a).done = s.done := rfl
@[simp] theorem State.answer_pv (s : State) (a : Answer) : (s.answer a).pv = s.pv := rfl
@[simp] theorem State.answer_misMask (s : State) (a : Answer) : (s.answer a).misMask = s.misMask := rfl
@[simp] theorem State.answer_misCnt (s : State) (a : Answer) : (s.answer a).misCnt = s.misCnt := rfl
@[simp] theorem State.answer_pending (s : State) (a : Answer) : (s.answer a).pending = s.pending := rfl
@[simp] theorem State.answer_responses (s : State) (a : Answer) : (s.answer a).responses = .ok a :: s.responses := rfl

/-! ### `State.placeCommand` -/

@[simp] theorem State.placeCommand_acc (s : State) (w : Word32) : (s.placeCommand w).acc = s.acc := rfl
@[simp] theorem State.placeCommand_fb (s : State) (w : Word32) : (s.placeCommand w).fb = s.fb := rfl
@[simp] theorem State.placeCommand_len (s : State) (w : Word32) : (s.placeCommand w).len = s.len := rfl
@[simp] theorem State.placeCommand_res (s : State) (w : Word32) : (s.placeCommand w).res = s.res := rfl
@[simp] theorem State.placeCommand_done (s : State) (w : Word32) : (s.placeCommand w).done = s.done := rfl
@[simp] theorem State.placeCommand_pv (s : State) (w : Word32) : (s.placeCommand w).pv = s.pv := rfl
@[simp] theorem State.placeCommand_misMask (s : State) (w : Word32) : (s.placeCommand w).misMask = s.misMask := rfl
@[simp] theorem State.placeCommand_misCnt (s : State) (w : Word32) : (s.placeCommand w).misCnt = s.misCnt := rfl
@[simp] theorem State.placeCommand_pending (s : State) (w : Word32) :
    (s.placeCommand w).pending = .command w :: s.pending := rfl
@[simp] theorem State.placeCommand_responses (s : State) (w : Word32) :
    (s.placeCommand w).responses = s.responses := rfl

/-! ### `State.resetBlock` -/

@[simp] theorem State.resetBlock_acc (s : State) : (s.resetBlock).acc = 0xFF := rfl
@[simp] theorem State.resetBlock_fb (s : State) : (s.resetBlock).fb = s.fb := rfl
@[simp] theorem State.resetBlock_len (s : State) : (s.resetBlock).len = 0 := rfl
@[simp] theorem State.resetBlock_res (s : State) : (s.resetBlock).res = Vector.replicate 8 none := rfl
@[simp] theorem State.resetBlock_done (s : State) : (s.resetBlock).done = false := rfl
@[simp] theorem State.resetBlock_pv (s : State) : (s.resetBlock).pv = false := rfl
@[simp] theorem State.resetBlock_misMask (s : State) : (s.resetBlock).misMask = 0 := rfl
@[simp] theorem State.resetBlock_misCnt (s : State) : (s.resetBlock).misCnt = 0 := rfl
@[simp] theorem State.resetBlock_pending (s : State) : (s.resetBlock).pending = s.pending := rfl
@[simp] theorem State.resetBlock_responses (s : State) : (s.resetBlock).responses = s.responses := rfl

/-! ### `State.checksum` -/

@[simp] theorem State.checksum_acc (s : State) (b0 b1 : Byte) : (s.checksum b0 b1).acc = crc8Two b0 b1 := rfl
@[simp] theorem State.checksum_fb (s : State) (b0 b1 : Byte) : (s.checksum b0 b1).fb = s.fb := rfl
@[simp] theorem State.checksum_len (s : State) (b0 b1 : Byte) : (s.checksum b0 b1).len = s.len := rfl
@[simp] theorem State.checksum_res (s : State) (b0 b1 : Byte) : (s.checksum b0 b1).res = s.res := rfl
@[simp] theorem State.checksum_done (s : State) (b0 b1 : Byte) : (s.checksum b0 b1).done = s.done := rfl
@[simp] theorem State.checksum_pv (s : State) (b0 b1 : Byte) : (s.checksum b0 b1).pv = s.pv := rfl
@[simp] theorem State.checksum_misMask (s : State) (b0 b1 : Byte) : (s.checksum b0 b1).misMask = s.misMask := rfl
@[simp] theorem State.checksum_misCnt (s : State) (b0 b1 : Byte) : (s.checksum b0 b1).misCnt = s.misCnt := rfl
@[simp] theorem State.checksum_pending (s : State) (b0 b1 : Byte) : (s.checksum b0 b1).pending = s.pending := rfl
@[simp] theorem State.checksum_responses (s : State) (b0 b1 : Byte) :
    (s.checksum b0 b1).responses = s.responses := rfl

/-! ### `State.setMismatch` -/

@[simp] theorem State.setMismatch_acc (s : State) (slot : Slot) (on : Bool) :
    (s.setMismatch slot on).acc = s.acc := rfl
@[simp] theorem State.setMismatch_fb (s : State) (slot : Slot) (on : Bool) : (s.setMismatch slot on).fb = s.fb := rfl
@[simp] theorem State.setMismatch_len (s : State) (slot : Slot) (on : Bool) :
    (s.setMismatch slot on).len = s.len := rfl
@[simp] theorem State.setMismatch_res (s : State) (slot : Slot) (on : Bool) :
    (s.setMismatch slot on).res = s.res := rfl
@[simp] theorem State.setMismatch_done (s : State) (slot : Slot) (on : Bool) :
    (s.setMismatch slot on).done = s.done := rfl
@[simp] theorem State.setMismatch_pv (s : State) (slot : Slot) (on : Bool) : (s.setMismatch slot on).pv = s.pv := rfl
@[simp] theorem State.setMismatch_misMask (s : State) (slot : Slot) (on : Bool) :
    (s.setMismatch slot on).misMask = writeBit s.misMask slot on := rfl
@[simp] theorem State.setMismatch_misCnt (s : State) (slot : Slot) (on : Bool) :
    (s.setMismatch slot on).misCnt = s.misCnt := rfl
@[simp] theorem State.setMismatch_pending (s : State) (slot : Slot) (on : Bool) :
    (s.setMismatch slot on).pending = s.pending := rfl
@[simp] theorem State.setMismatch_responses (s : State) (slot : Slot) (on : Bool) :
    (s.setMismatch slot on).responses = s.responses := rfl

end Sys2Proof.Machine
end

