-- ==== Sys2Proof/Laws/Ops.lean ====
section
/-!
SUPPORT. One lemma per shared operation, saying everything it can do: admission, the fault, a read and a write of the
frame buffer, one record, the buffer half of `PUSH`, and the loop of `DECODE`.
-/

namespace Sys2Proof.Machine

theorem whenOperating_operating {s : State} (h : s.pv = false) (run : State → Host.Outcome State Fault Refusal) :
    whenOperating s run = run s := by simp [whenOperating, h]

theorem whenOperating_faulted {s : State} (h : s.pv = true) (run : State → Host.Outcome State Fault Refusal) :
    whenOperating s run = .next (s.respond .errFault) := by simp [whenOperating, h]

/-- A next state behind the admission check comes from a refusal or from the command itself. -/
theorem whenOperating_next {s t : State} {run : State → Host.Outcome State Fault Refusal}
    (h : whenOperating s run = .next t) :
    (s.pv = true ∧ t = s.respond .errFault) ∨ (s.pv = false ∧ run s = .next t) := by
  unfold whenOperating at h
  split at h
  · rename_i hp
    exact .inl ⟨hp, by injection h with h; exact h.symm⟩
  · rename_i hp
    exact .inr ⟨by simpa using hp, h⟩

theorem memByte_ok {s : State} {a : Nat} {b : Byte} (ha : a < 24) (h : s.fb.read a = some b) :
    memByte s a = .ok b := by
  simp [memByte, Config.frameBytes, ha, h]

theorem memByte_ok_iff {s : State} {a : Nat} {b : Byte} :
    memByte s a = .ok b ↔ a < 24 ∧ s.fb.read a = some b := by
  unfold memByte Config.frameBytes
  split
  · rename_i ha
    cases h : s.fb.read a <;> simp [ha]
  · rename_i ha
    simp [ha]

theorem memWrite_ok (s : State) {a : Nat} (b : Byte) (ha : a < 24) :
    memWrite s a b = .ok { s with fb := s.fb.write a b } := by
  simp [memWrite, Config.frameBytes, ha]

/-- The buffer half of `PUSH` never faults: below 24 it stores, above it only sets `LEN` to 25. -/
theorem appendByte_eq (s : State) (b : Byte) :
    appendByte s b = .ok (if s.len ≤ 23 then { s with fb := s.fb.write s.len b, len := s.len + 1 }
      else { s with len := 25 }) := by
  unfold appendByte
  split
  · rename_i h
    rw [memWrite_ok s b (by omega)]
  · rfl

theorem recordAddr_eq (slot : Slot) : recordAddr slot = 3 * slot.val := Nat.mul_comm _ _

/-- A record is read exactly when its three cells hold bytes. -/
theorem readRecord_ok_iff {s : State} {slot : Slot} {r : Record} :
    readRecord s slot = .ok r ↔ s.fb.read (3 * slot.val) = some r.b0 ∧
      s.fb.read (3 * slot.val + 1) = some r.b1 ∧ s.fb.read (3 * slot.val + 2) = some r.c := by
  have hs := slot.isLt
  unfold readRecord
  rw [recordAddr_eq]
  constructor
  · intro h
    cases h0 : memByte s (3 * slot.val) with
    | error e => simp [h0] at h
    | ok b0 =>
      cases h1 : memByte s (3 * slot.val + 1) with
      | error e => simp [h0, h1] at h
      | ok b1 =>
        cases h2 : memByte s (3 * slot.val + 2) with
        | error e => simp [h0, h1, h2] at h
        | ok c =>
          simp only [h0, h1, h2, Except.ok.injEq] at h
          subst h
          exact ⟨(memByte_ok_iff.1 h0).2, (memByte_ok_iff.1 h1).2, (memByte_ok_iff.1 h2).2⟩
  · rintro ⟨h0, h1, h2⟩
    rw [memByte_ok (by omega) h0, memByte_ok (by omega) h1, memByte_ok (by omega) h2]

/-- Reading a record looks at the cells of the buffer and at nothing else. -/
theorem readRecord_congr {s t : State} (h : s.fb = t.fb) (slot : Slot) : readRecord s slot = readRecord t slot := by
  simp only [readRecord, memByte, h]

@[simp] theorem checksum_record (s : State) (r : Record) : (s.checksum r.b0 r.b1).acc = crc8Two r.b0 r.b1 := rfl

/-- What one turn of the loop of `DECODE` does: the slot's result, its mask bit, the accumulator. -/
theorem decodeSlot_fst (s : State) (slot : Slot) (r : Record) :
    (decodeSlot s slot r).1 = { s with
      acc := crc8Two r.b0 r.b1, res := s.res.set slot r.value,
      misMask := writeBit s.misMask slot r.mismatches } := by
  unfold decodeSlot Record.value decodeRecord Record.mismatches
  dsimp only
  by_cases h : crc8Two r.b0 r.b1 = r.c
  · have hb : (crc8Two r.b0 r.b1 != r.c) = false := by simp [h]
    have ht : (s.checksum r.b0 r.b1).acc = r.c := h
    rw [if_pos ht, if_pos h, hb]
    rfl
  · have hb : (crc8Two r.b0 r.b1 != r.c) = true := by simp [h]
    have ht : ¬(s.checksum r.b0 r.b1).acc = r.c := h
    rw [if_neg ht, if_neg h, hb]
    rfl

theorem decodeSlot_snd (s : State) (slot : Slot) (r : Record) :
    (decodeSlot s slot r).2 = if r.mismatches then 1 else 0 := by
  unfold decodeSlot Record.mismatches
  by_cases h : crc8Two r.b0 r.b1 = r.c <;> simp [h]

theorem writeBit_getLsbD (m : Byte) (slot : Slot) (on : Bool) (k : Slot) :
    (writeBit m slot on).getLsbD k.val = if k = slot then on else m.getLsbD k.val := by
  unfold writeBit
  fin_cases slot <;> fin_cases k <;> cases on <;> simp

/-- A buffer that holds a frame gives each slot's record. -/
theorem HoldsFrame.readRecord {s : State} {f : Slot → Record} (h : HoldsFrame s f) (slot : Slot) :
    readRecord s slot = .ok (f slot) := readRecord_ok_iff.2 (h slot)

/-- The loop of `DECODE` over a buffer that holds a frame: one turn per slot, and the mismatches counted. -/
theorem decodeSlots_eq {f : Slot → Record} (slots : List Slot) (s : State) (n : Nat) (h : HoldsFrame s f) :
    decodeSlots slots s n = .ok (slots.foldl (fun t slot => (decodeSlot t slot (f slot)).1) s,
      n + slots.countP fun slot => (f slot).mismatches) := by
  induction slots generalizing s n with
  | nil => rfl
  | cons slot slots ih =>
    have hf : HoldsFrame (decodeSlot s slot (f slot)).1 f := by rw [decodeSlot_fst]; exact h
    simp only [decodeSlots, h.readRecord slot, ih _ _ hf, decodeSlot_snd, List.foldl_cons, List.countP_cons]
    congr 2
    omega

/-- A loop of `DECODE` that ends has read a record of every slot. -/
theorem decodeSlots_ok {slots : List Slot} {s t : State} {n m : Nat} (h : decodeSlots slots s n = .ok (t, m)) :
    ∀ slot ∈ slots, ∃ r, readRecord s slot = .ok r := by
  induction slots generalizing s n with
  | nil => simp
  | cons k slots ih =>
    cases hr : readRecord s k with
    | error e => simp [decodeSlots, hr] at h
    | ok r =>
      simp only [decodeSlots, hr] at h
      intro slot hs
      rcases List.mem_cons.1 hs with rfl | hs
      · exact ⟨r, hr⟩
      · obtain ⟨r', hr'⟩ := ih h slot hs
        exact ⟨r', by rw [← hr']; exact readRecord_congr (by rw [decodeSlot_fst]) slot⟩

theorem allSlots_complete (slot : Slot) : slot ∈ allSlots := by
  fin_cases slot <;> decide

/-- The whole loop of `DECODE` on a frame (R79): every slot's result and mask bit, the accumulator of slot 7, and the
number of mismatches. -/
theorem decodeSlots_all {s : State} {f : Slot → Record} (h : HoldsFrame s f) :
    ∃ m : Byte, (∀ slot : Slot, m.getLsbD slot.val = (f slot).mismatches) ∧
      decodeSlots allSlots s 0 = .ok ({ s with
        acc := crc8Two (f 7).b0 (f 7).b1, res := Vector.ofFn fun slot => (f slot).value, misMask := m },
        allSlots.countP fun slot => (f slot).mismatches) := by
  refine ⟨(allSlots.foldl (fun t slot => (decodeSlot t slot (f slot)).1) s).misMask, ?_, ?_⟩
  · intro slot
    simp only [allSlots, List.foldl_cons, List.foldl_nil, decodeSlot_fst, writeBit_getLsbD]
    fin_cases slot <;> simp
  · rw [decodeSlots_eq allSlots s 0 h, Nat.zero_add]
    simp only [allSlots, List.foldl_cons, List.foldl_nil, decodeSlot_fst]
    congr 3
    ext i hi
    rcases i with _ | _ | _ | _ | _ | _ | _ | _ | i
    all_goals first
      | (simp; done)
      | omega

/-- Reading one cell inside the buffer fails only on a cell that holds no value. -/
theorem memByte_error {s : State} {a : Nat} {e : Fault} (ha : a < 24) (h : memByte s a = .error e) :
    s.fb.read a = none ∧ e = .unwrittenCell a := by
  unfold memByte Config.frameBytes at h
  rw [if_pos ha] at h
  cases hr : s.fb.read a <;> simp_all

/-- Reading a record fails only on a cell of the buffer that holds no value. -/
theorem readRecord_error {s : State} {slot : Slot} {e : Fault} (h : readRecord s slot = .error e) :
    ∃ a < 24, s.fb.read a = none ∧ e = .unwrittenCell a := by
  have hs := slot.isLt
  unfold readRecord at h
  rw [recordAddr_eq] at h
  cases h0 : memByte s (3 * slot.val) with
  | error e0 =>
    simp only [h0, Except.error.injEq] at h
    exact ⟨_, by omega, h ▸ memByte_error (by omega) h0⟩
  | ok b0 =>
    cases h1 : memByte s (3 * slot.val + 1) with
    | error e1 =>
      simp only [h0, h1, Except.error.injEq] at h
      exact ⟨_, by omega, h ▸ memByte_error (by omega) h1⟩
    | ok b1 =>
      cases h2 : memByte s (3 * slot.val + 2) with
      | error e2 =>
        simp only [h0, h1, h2, Except.error.injEq] at h
        exact ⟨_, by omega, h ▸ memByte_error (by omega) h2⟩
      | ok c => simp [h0, h1, h2] at h

/-- The loop of `DECODE` fails only on a cell of the buffer that holds no value. -/
theorem decodeSlots_error {slots : List Slot} {s : State} {n : Nat} {e : Fault}
    (h : decodeSlots slots s n = .error e) : ∃ a < 24, s.fb.read a = none ∧ e = .unwrittenCell a := by
  induction slots generalizing s n with
  | nil => simp [decodeSlots] at h
  | cons slot slots ih =>
    cases hr : readRecord s slot with
    | error e' =>
      simp only [decodeSlots, hr, Except.error.injEq] at h
      exact h ▸ readRecord_error hr
    | ok r =>
      simp only [decodeSlots, hr] at h
      obtain ⟨a, ha, hb, hc⟩ := ih h
      rw [decodeSlot_fst] at hb
      exact ⟨a, ha, hb, hc⟩

/-- A buffer all of whose cells hold bytes holds a frame. -/
theorem exists_holdsFrame {s : State} (h : s.fb.holdsBelow 24) : ∃ f, HoldsFrame s f := by
  have hr : ∀ slot : Slot, ∃ r : Record, s.fb.read (3 * slot.val) = some r.b0 ∧
      s.fb.read (3 * slot.val + 1) = some r.b1 ∧ s.fb.read (3 * slot.val + 2) = some r.c := by
    intro slot
    obtain ⟨b0, h0⟩ := Option.isSome_iff_exists.1 (h (3 * slot.val) (by omega))
    obtain ⟨b1, h1⟩ := Option.isSome_iff_exists.1 (h (3 * slot.val + 1) (by omega))
    obtain ⟨c, h2⟩ := Option.isSome_iff_exists.1 (h (3 * slot.val + 2) (by omega))
    exact ⟨⟨b0, b1, c⟩, h0, h1, h2⟩
  choose f hf using hr
  exact ⟨f, hf⟩

/-- A buffer holds at most one frame. -/
theorem HoldsFrame.unique {s : State} {f g : Slot → Record} (hf : HoldsFrame s f) (hg : HoldsFrame s g) : f = g := by
  funext slot
  have h := hg slot
  rw [(hf slot).1, (hf slot).2.1, (hf slot).2.2] at h
  obtain ⟨h0, h1, h2⟩ := h
  cases hfs : f slot
  cases hgs : g slot
  simp_all

end Sys2Proof.Machine
end

