-- ==== Sys2Proof/Tests/Slice0.lean ====
section
/-!
SUPPORT. The model's own tests. Every expected word and value is the spec's: 95_test_vectors.md sections 2 and 3, or a
worked example of the rule named beside it. The second half shows, for every statement with hypotheses, concrete states
and operands that meet them.
-/

namespace Sys2Proof.Tests

open Sys2Proof Sys2Proof.Machine

/-! ### Well-formed words (R58, R61): one ill-formed word for each reserved field, and the nearest well-formed one -/

theorem test_reserved_Z : wellFormedWord 0x52000001 = false ∧ wellFormedWord 0x52000000 = true := by decide
theorem test_reserved_Z_top_bit : wellFormedWord 0x01800000 = false ∧ wellFormedWord 0x01000000 = true := by decide
theorem test_reserved_B : wellFormedWord 0x51000100 = false ∧ wellFormedWord 0x510000FF = true := by decide
theorem test_reserved_S : wellFormedWord 0x53000008 = false ∧ wellFormedWord 0x53000007 = true := by decide
theorem test_reserved_S_scaled : wellFormedWord 0x61000008 = false ∧ wellFormedWord 0x61000007 = true := by decide
theorem test_reserved_W2 : wellFormedWord 0x40010000 = false ∧ wellFormedWord 0x4000FFFF = true := by decide
theorem test_no_reserved_W3 : wellFormedWord 0x41FFFFFF = true := by decide
theorem test_reserved_SV : wellFormedWord 0x60080000 = false ∧ wellFormedWord 0x6007FFFF = true := by decide
theorem test_reserved_opcodes : wellFormedWord 0x00000000 = false ∧ wellFormedWord 0xFFFFFFFF = false ∧
    wellFormedWord 0x03000000 = false := by decide
theorem test_format_reserved_bits : Format.accepts .SV 0x080000 = false ∧ Format.accepts .SV 0x07FFFF = true ∧
    Format.accepts .S 0x000008 = false ∧ Format.accepts .W2 0x010000 = false ∧ Format.accepts .B 0x000100 = false ∧
    Format.accepts .Z 0x000001 = false ∧ Format.accepts .W3 0xFFFFFF = true := by decide

/-! ### Words written out bit by bit from R52 and R53 -/

theorem test_decode_rst : decode (0b00000001#8 ++ 0#24) = .ok .rst := by decide
theorem test_decode_rdst : decode (0b00000010#8 ++ 0#24) = .ok .rdst := by decide
theorem test_decode_crc2 : decode (0b01000000#8 ++ 0#8 ++ 0b10111110#8 ++ 0b11101111#8) = .ok (.crc2 0xBE 0xEF) := by
  decide
theorem test_decode_vrec :
    decode (0b01000001#8 ++ 0b10111110#8 ++ 0b11101111#8 ++ 0b10010010#8) = .ok (.vrec 0xBE 0xEF 0x92) := by decide
theorem test_decode_rdacc : decode (0b01000010#8 ++ 0#24) = .ok .rdacc := by decide
theorem test_decode_fclr : decode (0b01010000#8 ++ 0#24) = .ok .fclr := by decide
theorem test_decode_push : decode (0b01010001#8 ++ 0#16 ++ 0b01011010#8) = .ok (.push 0x5A) := by decide
theorem test_decode_decode : decode (0b01010010#8 ++ 0#24) = .ok .decode := by decide
theorem test_decode_rdi : decode (0b01010011#8 ++ 0#21 ++ 0b101#3) = .ok (.rdi 5) := by decide
theorem test_decode_scl :
    decode (0b01100000#8 ++ 0#5 ++ 0b101#3 ++ 0b1111101111100110#16) = .ok (.scl 5 (-1050)) := by decide
theorem test_decode_rds : decode (0b01100001#8 ++ 0#21 ++ 0b100#3) = .ok (.rds 4) := by decide
theorem test_decode_names_the_refusal : decode 0x03000000 = .error (.reservedOpcode 0x03) ∧
    decode 0x53000008 = .error (.reservedOperandBits 0x53 0x000008) := by decide
theorem test_decodeTableWord : decodeTableWord 32 0x6005FBE6 = some (.scl 5 0xFBE6) ∧
    decodeTableWord 32 0x60080000 = none := by decide

/-! ### One step on a small state -/

/-- The word of the response a step produced. -/
def answerOf : Host.Outcome State Fault Refusal → Option Word32
  | .next t => t.responses.head?.map Response.word
  | .fault _ => none
  | .refused _ => none

/-- The response to a command word the host issues in a state. -/
def answerTo (s : State) (w : Nat) : Option Word32 := answerOf (step (s.withFetchWord 32 w))

/-- One field of the state a step leaves. -/
def fieldAfter {α : Type} (s : State) (w : Nat) (field : State → α) : Option α :=
  match step (s.withFetchWord 32 w) with
  | .next t => some (field t)
  | .fault _ => none
  | .refused _ => none

/-- The state after reset with 24 given bytes in the buffer, nothing decoded. -/
def loaded (bytes : List Byte) : State :=
  { State.reset with fb := (List.range 24).zip bytes, len := 24 }

/-- The frame of 95_test_vectors.md section 3. -/
def goodBytes : List Byte :=
  [0x00, 0x0A, 0x5A, 0x00, 0x7B, 0x93, 0x00, 0x96, 0x1E, 0x00, 0xC8, 0x7F,
   0x11, 0xD7, 0x88, 0xFB, 0xE6, 0xE4, 0x03, 0xE8, 0xD4, 0x00, 0x0A, 0x5A]

/-- The faulted block, with 23 bytes pushed (program P4 after step 26). -/
def faultedBlock : State :=
  { State.reset with fb := (List.range 23).zip goodBytes, len := 23, pv := true }

/-- Slot 5 holds -1050 and slot 4 holds 4567; the others are absent (95_test_vectors.md sections 2.3 and 2.4). -/
def withResults : State :=
  { State.reset with res := #v[none, none, none, none, some 0x11D7, some 0xFBE6, none, none] }

theorem test_crc2_beef : answerTo State.reset 0x4000BEEF = some 0x00000092 := by decide +kernel
theorem test_crc2_writes_acc : fieldAfter State.reset 0x4000FFFF State.acc = some 0xAC := by decide +kernel
theorem test_vrec_valid : answerTo State.reset 0x41BEEF92 = some 0x0192BEEF := by decide +kernel
theorem test_vrec_invalid : answerTo State.reset 0x41BEEF93 = some 0x00920000 := by decide +kernel
theorem test_rdacc_after_reset : answerTo State.reset 0x42000000 = some 0x000000FF := by decide +kernel
theorem test_rdacc_refused : answerTo faultedBlock 0x42000000 = some 0x20000000 := by decide +kernel
theorem test_fclr_clears_len : fieldAfter (loaded goodBytes) 0x50000000 State.len = some 0 := by decide +kernel
theorem test_fclr_refused : answerTo faultedBlock 0x50000000 = some 0x20000000 := by decide +kernel
theorem test_push_first_byte : answerTo State.reset 0x510000BE = some 0x00000001 := by decide +kernel
theorem test_push_25th_byte : answerTo (loaded goodBytes) 0x51000055 = some 0x00000019 := by decide +kernel
theorem test_decode_corrupted : answerTo (loaded (goodBytes.set 8 0x1F)) 0x52000000 = some 0x00000004 := by
  decide +kernel
theorem test_decode_empty_faults : answerTo State.reset 0x52000000 = some 0x30000000 := by decide +kernel
theorem test_rdi_negative : answerTo withResults 0x53000005 = some 0x0100FBE6 := by decide +kernel
theorem test_rdi_absent : answerTo withResults 0x53000000 = some 0x00000000 := by decide +kernel
theorem test_scl_most_negative : answerTo State.reset 0x60008000 = some 0x01CE0000 := by decide +kernel
theorem test_scl_temperature : answerTo State.reset 0x6005FBE6 = some 0x01FFEB7E := by decide +kernel
theorem test_rds_humidity : answerTo withResults 0x61000004 = some 0x0100B266 := by decide +kernel
theorem test_rds_absent : answerTo withResults 0x61000002 = some 0x00000000 := by decide +kernel
theorem test_rst_clears_the_fault : fieldAfter faultedBlock 0x01000000 State.pv = some false := by decide +kernel
theorem test_rst_with_reserved_bit : answerTo faultedBlock 0x01000001 = some 0x10000000 := by decide +kernel
theorem test_rdst_faulted : answerTo faultedBlock 0x02000000 = some 0x00970000 := by decide +kernel
theorem test_rdst_after_reset : answerTo State.reset 0x02000000 = some 0x00000000 := by decide +kernel

/-- R66's corner, and the vector `crc8_absorb(0x92, 0x92)` of section 2.1. -/
theorem test_crc_functions : crc8Shift 0x80 = 0x31 ∧ crc8Shift 0x7F = 0xFE ∧ crc8Absorb 0xFF 0xBE = 0x0C ∧
    crc8Absorb 0x92 0x92 = 0x00 := by decide +kernel

/-- Two divisor entries against their multipliers (R7). -/
theorem test_mul_is_thousand_over_div : ∀ slot : Slot, Config.mul slot = Config.scaleDen / Config.div slot := by
  decide

/-- R65's example of the assembler's operand order and its slot name `temp`. -/
theorem test_assembler : encode (.scl 5 (-1050)) = 0x6005FBE6 ∧ slotNames.lookup "temp" = some 5 := by
  decide +kernel

/-- The write pointer's boundary: a write at 23 stays in the buffer, one at 24 has no cell (R10). -/
theorem test_memWrite_bounds : (memWrite State.reset 23 0x5A).isOk = true ∧
    (memWrite State.reset 24 0x5A).isOk = false := by decide +kernel

/-! ### States that meet the statements' hypotheses -/

/-- The records of the frame of section 3. -/
def goodRecords : Slot → Record := fun slot =>
  ⟨goodBytes.getD (3 * slot.val) 0, goodBytes.getD (3 * slot.val + 1) 0, goodBytes.getD (3 * slot.val + 2) 0⟩

theorem loaded_holds (bytes : List Byte) (h : bytes.length = 24) : HoldsFrame (loaded bytes) fun slot =>
    ⟨bytes.getD (3 * slot.val) 0, bytes.getD (3 * slot.val + 1) 0, bytes.getD (3 * slot.val + 2) 0⟩ := by
  obtain ⟨b0, b1, b2, b3, b4, b5, b6, b7, b8, b9, b10, b11, b12, b13, b14, b15, b16, b17, b18, b19, b20, b21, b22, b23,
    rfl⟩ : ∃ b0 b1 b2 b3 b4 b5 b6 b7 b8 b9 b10 b11 b12 b13 b14 b15 b16 b17 b18 b19 b20 b21 b22 b23, bytes =
      [b0, b1, b2, b3, b4, b5, b6, b7, b8, b9, b10, b11, b12, b13, b14, b15, b16, b17, b18, b19, b20, b21, b22, b23] := by
    match bytes, h with
    | [b0, b1, b2, b3, b4, b5, b6, b7, b8, b9, b10, b11, b12, b13, b14, b15, b16, b17, b18, b19, b20, b21, b22, b23], _ =>
      exact ⟨b0, b1, b2, b3, b4, b5, b6, b7, b8, b9, b10, b11, b12, b13, b14, b15, b16, b17, b18, b19, b20, b21, b22,
        b23, rfl⟩
  intro slot
  fin_cases slot <;> exact ⟨rfl, rfl, rfl⟩

/-- The frame with slot 2's checksum byte corrupted (program P3). -/
def corruptedBytes : List Byte := goodBytes.set 8 0x1F

/-- The values the frame of section 3 carries (S6, program P2). -/
def goodValues : Slot → Raw := fun slot => #v[10, 123, 150, 200, 4567, -1050, 1000, 10][slot]

theorem goodRecords_are_encoded : ∀ slot : Slot, goodRecords slot = encodeRecord (goodValues slot) := by
  decide +kernel

theorem loaded_good : HoldsFrame (loaded goodBytes) goodRecords := loaded_holds goodBytes rfl

theorem loaded_encoded : HoldsFrame (loaded goodBytes) fun slot => encodeRecord (goodValues slot) := by
  have h : goodRecords = fun slot => encodeRecord (goodValues slot) := funext goodRecords_are_encoded
  exact h ▸ loaded_good

theorem loaded_holdsBelow : (loaded goodBytes).fb.holdsBelow 24 := by
  unfold Memory.holdsBelow
  decide

/-- The machine gives a next state. -/
def isNext : Host.Outcome State Fault Refusal → Bool
  | .next _ => true
  | .fault _ => false
  | .refused _ => false

theorem exists_next {o : Host.Outcome State Fault Refusal} (h : isNext o = true) : ∃ t, o = .next t := by
  cases o with
  | next t => exact ⟨t, rfl⟩
  | fault e => cases h
  | refused r => cases h

theorem decode_runs : ∃ t, exec .decode (loaded goodBytes) = .next t := exists_next (by decide +kernel)

theorem decode_runs_corrupted : ∃ t, exec .decode (loaded corruptedBytes) = .next t :=
  exists_next (by decide +kernel)

/-- A block that is loaded and not decoded meets the invariants of R29. -/
theorem loaded_inv : (loaded goodBytes).Inv where
  memory := by decide
  lenBounded := by unfold State.LenBounded; decide
  faulted := fun h => by cases h
  undecoded := fun _ => by decide
  decoded := fun h => by cases h
  pushed := loaded_holdsBelow

/-- A faulted block meets the invariants of R29. -/
theorem faultedBlock_inv : faultedBlock.Inv where
  memory := by decide
  lenBounded := by unfold State.LenBounded; decide
  faulted := fun _ => by decide
  undecoded := fun _ => by decide
  decoded := fun h => by cases h
  pushed := by
    unfold State.PushedCellsHold Memory.holdsBelow
    decide

theorem loaded_command_inv (w : Word32) : State.Inv { loaded goodBytes with pending := [.command w] } where
  memory := loaded_inv.memory
  lenBounded := loaded_inv.lenBounded
  faulted := loaded_inv.faulted
  undecoded := loaded_inv.undecoded
  decoded := loaded_inv.decoded
  pushed := loaded_inv.pushed

theorem witness_OperandFormats :
    (0x01000000 : Word32).extractLsb' 24 8 = 0x01 ∧ (0x02000001 : Word32).extractLsb' 24 8 = 0x02 ∧
    (0x42000000 : Word32).extractLsb' 24 8 = 0x42 ∧ (0x50800000 : Word32).extractLsb' 24 8 = 0x50 ∧
    (0x52000000 : Word32).extractLsb' 24 8 = 0x52 ∧ (0x510000FF : Word32).extractLsb' 24 8 = 0x51 ∧
    (0x53000007 : Word32).extractLsb' 24 8 = 0x53 ∧ (0x61000008 : Word32).extractLsb' 24 8 = 0x61 ∧
    (0x4000FFFF : Word32).extractLsb' 24 8 = 0x40 ∧ (0x41FFFFFF : Word32).extractLsb' 24 8 = 0x41 ∧
    (0x6007FFFF : Word32).extractLsb' 24 8 = 0x60 := by decide

theorem witness_DecoderFollowsOpcodeMap : ∃ row ∈ opcodeMap, (0x53000007 : Word32) &&& row.mask = row.pattern := by
  exact ⟨⟨"RDI", 0x53, .S, 0x53000000, 0xFFFFFFF8⟩, by decide, by decide⟩

theorem witness_EncodeAndDecodeAreInverse : decode 0x6007FFFF = .ok (.scl 7 0xFFFF) ∧
    encode (.rdi 7) = encode (.rdi 7) := by decide

theorem witness_ReservedOpcodesAreIllegal : decode 0x62000000 = .error (.reservedOpcode 0x62) ∧
    decode 0x3FFFFFFF = .error (.reservedOpcode 0x3F) := by decide

theorem witness_ReservedOperandBitsAreIllegal : ∃ row ∈ opcodeMap, opcodeOf 0x60080000 = row.opcode ∧
    operandOf 0x60080000 &&& row.format.reserved ≠ 0 :=
  ⟨⟨"SCL", 0x60, .SV, 0x60000000, 0xFFF80000⟩, by decide, by decide, by decide⟩

theorem witness_ResponseWordLayout : Response.faultPv.statusCode ≠ 0 ∧ Response.errIllegal.statusCode ≠ 0 := by decide

theorem witness_OkResponseOfEachCommand : (loaded goodBytes).pv = false ∧ (loaded goodBytes).len = 24 ∧
    (loaded goodBytes).fb.holdsBelow 24 := ⟨rfl, rfl, loaded_holdsBelow⟩

/-- A state in which the host has issued one input. -/
def issued (x : HostInput) (s : State) : State := { s with pending := [x] }

theorem witness_StepRunsTheDecodedCommand : (issued (.command 0x4000BEEF) State.reset).pending =
    [.command 0x4000BEEF] ∧ decode 0x4000BEEF = .ok (.crc2 0xBE 0xEF) := by decide

theorem witness_StepWithoutACommand : State.reset.pending = [] ∧
    (issued .resetPin faultedBlock).pending = [.resetPin] := by decide

/-- One state and word for each of R64's three cases. -/
theorem witness_ExecutionOfAnyWord :
    decode 0x52000001 = .error (.reservedOperandBits 0x52 0x000001) ∧
    (decode 0x50000000 = .ok .fclr ∧ (issued (.command 0x50000000) faultedBlock).pv = true) ∧
    (decode 0x02000000 = .ok .rdst ∧ ∃ t, step (issued (.command 0x02000000) faultedBlock) = .next t) ∧
    (decode 0x52000000 = .ok .decode ∧ (issued (.command 0x52000000) State.reset).pv = false ∧
      ∃ t, step (issued (.command 0x52000000) State.reset) = .next t) :=
  ⟨by decide, by decide, ⟨by decide, exists_next (by decide +kernel)⟩,
    ⟨by decide, rfl, exists_next (by decide +kernel)⟩⟩

theorem witness_IllegalWordIsRefusedInEveryState : decode 0x00000000 = .error (.reservedOpcode 0) ∧
    (issued (.command 0x00000000) faultedBlock).pending = [.command 0x00000000] := by decide

theorem witness_FaultedBlockRefusesCommands : faultedBlock.pv = true ∧ Instr.decode ≠ .rst ∧ Instr.decode ≠ .rdst := by
  decide

theorem witness_OnlySystemCommandsRunWhileFaulted : faultedBlock.pv = true := rfl

theorem witness_OneResponsePerCommandWord :
    (State.Inv { loaded goodBytes with pending := [.command 0x52000000] }) ∧
    (∃ t, step (issued .resetPin faultedBlock) = .next t) ∧
    ∀ w rest, (issued .resetPin faultedBlock).pending ≠ .command w :: rest :=
  ⟨loaded_command_inv _, exists_next (by decide +kernel), fun w rest h => by cases h⟩

theorem witness_RstResetsTheBlock : Instr.decode ≠ .rst ∧ (∃ t, exec .fclr faultedBlock = .next t) ∧
    faultedBlock.pv = true ∧ opcodeOf 0x01000001 = 0x01 ∧ operandOf 0x01000001 ≠ 0 :=
  ⟨by decide, exists_next (by decide +kernel), rfl, by decide, by decide⟩

theorem witness_RdstReadsStatus : ({ State.reset with len := 25 } : State).len ≤ 25 ∧ faultedBlock.Inv ∧
    faultedBlock.pv = true ∧ opcodeOf 0x02800000 = 0x02 ∧ operandOf 0x02800000 ≠ 0 :=
  ⟨by decide, faultedBlock_inv, rfl, by decide, by decide⟩

theorem witness_CrcShiftBits : (0x80 : Byte).getLsbD 7 = true ∧ (0x7F : Byte).getLsbD 7 = false := by decide

theorem witness_CrcDetectsThreeBitErrors :
    (1 ≤ (List.range 24).countP (fun k => (0x800000 : BitVec 24).getLsbD k) ∧
      (List.range 24).countP (fun k => (0x800000 : BitVec 24).getLsbD k) ≤ 3) ∧
    (1 ≤ (List.range 24).countP (fun k => (0x800101 : BitVec 24).getLsbD k) ∧
      (List.range 24).countP (fun k => (0x800101 : BitVec 24).getLsbD k) ≤ 3) := by decide +kernel

theorem witness_CrcIsBijectiveInEachByte : (0x01 : Byte) ≠ 0x00 ∧ (0xFF : Byte) ≠ 0xFE := by decide

theorem witness_Crc2ComputesTheChecksum : State.reset.pv = false ∧ faultedBlock.pv = true ∧
    opcodeOf 0x40010000 = 0x40 ∧ (0x40010000 : Word32).extractLsb' 16 8 ≠ 0 := by decide

theorem witness_VrecValidatesOneRecord : State.reset.pv = false ∧ faultedBlock.pv = true ∧
    opcodeOf 0x41FFFFFF = 0x41 := by decide

theorem witness_RdaccReadsTheAccumulator : State.reset.pv = false ∧ faultedBlock.pv = true ∧
    (opcodeOf 0x42000001 = 0x42 ∧ operandOf 0x42000001 ≠ 0) ∧
    ((loaded goodBytes).pv = false ∧ (loaded goodBytes).len = 24 ∧ HoldsFrame (loaded goodBytes) goodRecords ∧
      ∃ t, exec .decode (loaded goodBytes) = .next t) ∧
    (State.reset.len ≠ 24 ∧ ∃ t, exec .decode State.reset = .next t) :=
  ⟨rfl, rfl, by decide, ⟨rfl, rfl, loaded_good, decode_runs⟩, by decide, exists_next (by decide +kernel)⟩

theorem witness_FclrStartsANewFrame : (loaded goodBytes).pv = false ∧ faultedBlock.pv = true ∧
    (opcodeOf 0x50000001 = 0x50 ∧ operandOf 0x50000001 ≠ 0) ∧ ∃ t, exec .fclr (loaded goodBytes) = .next t :=
  ⟨rfl, rfl, by decide, exists_next (by decide +kernel)⟩

/-- Both sides of the boundary: `LEN` 23 stores, `LEN` 24 does not. -/
theorem witness_PushAppendsOneByte : (State.reset.pv = false ∧ ({ State.reset with len := 23 } : State).len ≤ 23) ∧
    24 ≤ (loaded goodBytes).len ∧ faultedBlock.pv = true ∧
    (opcodeOf 0x51000100 = 0x51 ∧ (0x51000100 : Word32).extractLsb' 8 16 ≠ 0) := by decide

theorem witness_DecodeValidatesTheFrame : ((loaded corruptedBytes).pv = false ∧ (loaded corruptedBytes).len = 24 ∧
      ∃ f, HoldsFrame (loaded corruptedBytes) f) ∧
    (State.reset.pv = false ∧ State.reset.len ≠ 24) ∧ faultedBlock.pv = true ∧
    (opcodeOf 0x52000001 = 0x52 ∧ operandOf 0x52000001 ≠ 0) :=
  ⟨⟨rfl, rfl, _, loaded_holds corruptedBytes rfl⟩, by decide, rfl, by decide⟩

/-- Too short by one, and too long. -/
theorem witness_PreconditionViolationEntry :
    (({ State.reset with len := 23 } : State).pv = false ∧ ({ State.reset with len := 23 } : State).len ≠ 24) ∧
    ({ State.reset with len := 25 } : State).len ≠ 24 := by decide

theorem witness_PreconditionViolationCause : State.reset.pv = false ∧ (∃ t, exec .decode State.reset = .next t) ∧
    ∃ t, exec (.push 0x55) State.reset = .next t :=
  ⟨rfl, exists_next (by decide +kernel), exists_next (by decide +kernel)⟩

theorem witness_RdiReadsTheInteger : withResults.pv = false ∧ faultedBlock.pv = true ∧
    (opcodeOf 0x53000008 = 0x53 ∧ (0x53000008 : Word32).extractLsb' 3 21 ≠ 0) ∧
    (loaded goodBytes).Inv ∧ (loaded goodBytes).pv = false ∧ (loaded goodBytes).done = false :=
  ⟨by decide, rfl, by decide, loaded_inv, rfl, rfl⟩

/-- Two frames that differ in slot 2 alone. -/
theorem witness_SlotsAreIndependent : (loaded goodBytes).pv = false ∧ (loaded corruptedBytes).pv = false ∧
    (loaded goodBytes).len = 24 ∧ (loaded corruptedBytes).len = 24 ∧ HoldsFrame (loaded goodBytes) goodRecords ∧
    (∃ f, HoldsFrame (loaded corruptedBytes) f ∧ goodRecords 3 = f 3 ∧ goodRecords 2 ≠ f 2) ∧
    (∃ t, exec .decode (loaded goodBytes) = .next t) ∧ ∃ t, exec .decode (loaded corruptedBytes) = .next t :=
  ⟨rfl, rfl, rfl, rfl, loaded_good, ⟨_, loaded_holds corruptedBytes rfl, by decide, by decide⟩, decode_runs,
    decode_runs_corrupted⟩

theorem witness_FrameRoundTrip : (loaded goodBytes).pv = false ∧ (loaded goodBytes).len = 24 ∧
    HoldsFrame (loaded goodBytes) fun slot => encodeRecord (goodValues slot) := ⟨rfl, rfl, loaded_encoded⟩

/-- Slot 2's checksum byte with bit 0 flipped (program P3). -/
theorem witness_CorruptedChecksumMakesOneSlotAbsent : (loaded corruptedBytes).pv = false ∧
    (loaded corruptedBytes).len = 24 ∧ HoldsFrame (loaded corruptedBytes) (fun j : Slot =>
      if j = 2 then { encodeRecord (goodValues j) with c := (encodeRecord (goodValues j)).c ^^^ 1#8 <<< (0 : Fin 8).val }
      else encodeRecord (goodValues j)) := by
  refine ⟨rfl, rfl, ?_⟩
  have h : (fun slot : Slot => (⟨corruptedBytes.getD (3 * slot.val) 0, corruptedBytes.getD (3 * slot.val + 1) 0,
      corruptedBytes.getD (3 * slot.val + 2) 0⟩ : Record)) = fun j : Slot =>
        if j = 2 then { encodeRecord (goodValues j) with c := (encodeRecord (goodValues j)).c ^^^ 1#8 <<< (0 : Fin 8).val }
        else encodeRecord (goodValues j) := by
    funext slot
    revert slot
    decide +kernel
  exact h ▸ loaded_holds corruptedBytes rfl

theorem witness_SecondDecodeRepeats : (loaded goodBytes).pv = false ∧ (loaded goodBytes).len = 24 ∧
    (loaded goodBytes).fb.holdsBelow 24 ∧ ∃ t, exec .decode (loaded goodBytes) = .next t :=
  ⟨rfl, rfl, loaded_holdsBelow, decode_runs⟩

theorem witness_AllZeroFrameIsAbsent :
    (∃ s : State, s.pv = false ∧ s.len = 24 ∧ HoldsFrame s (fun _ => ⟨0x00, 0x00, 0x00⟩)) ∧
    ∃ s : State, s.pv = false ∧ s.len = 24 ∧ HoldsFrame s (fun _ => ⟨0x00, 0x00, 0x81⟩) := by
  refine ⟨⟨loaded (List.replicate 24 0x00), rfl, rfl, ?_⟩,
    ⟨loaded ((List.range 24).map fun k => if k % 3 = 2 then 0x81 else 0x00), rfl, rfl, ?_⟩⟩ <;>
    intro slot <;> fin_cases slot <;> exact ⟨rfl, rfl, rfl⟩

theorem witness_PushedBytesStandInOrder : State.reset.pv = false ∧ State.reset.len = 0 := by decide

/-- Exactly 24 bytes, 23, and 25. -/
theorem witness_FrameOfOtherLengthIsNeverDecoded : faultedBlock.pv = true ∧ State.reset.pv = false ∧
    goodBytes.length = 24 ∧ ((goodBytes.take 23).length = 23 ∧ (goodBytes.take 23).length ≠ 24) ∧
    ((goodBytes ++ [0x55]).length = 25 ∧ (goodBytes ++ [0x55]).length ≠ 24) := by decide

theorem witness_ScaleNeverOverflows : Config.mul 0 = 100 ∧ Config.mul 7 = 100 := by decide

theorem witness_SclScalesItsOperand : State.reset.pv = false ∧ faultedBlock.pv = true ∧
    (opcodeOf 0x60080000 = 0x60 ∧ (0x60080000 : Word32).extractLsb' 19 5 ≠ 0) ∧ Config.mul 0 = 100 := by decide

theorem witness_RdsReadsTheScaledValue : withResults.pv = false ∧ withResults.res[(4 : Slot)] = some 0x11D7 ∧
    withResults.res[(2 : Slot)] = none ∧ faultedBlock.pv = true ∧
    (opcodeOf 0x61000008 = 0x61 ∧ (0x61000008 : Word32).extractLsb' 3 21 ≠ 0) ∧
    (loaded goodBytes).Inv ∧ (loaded goodBytes).pv = false ∧ (loaded goodBytes).done = false :=
  ⟨by decide, by decide, by decide, rfl, by decide, loaded_inv, rfl, rfl⟩

theorem witness_EveryStepKeepsTheInvariants : State.Inv { loaded goodBytes with pending := [.command 0x52000000] } ∧
    ∃ t, step { loaded goodBytes with pending := [.command 0x52000000] } = .next t :=
  ⟨loaded_command_inv _, exists_next (by decide +kernel)⟩

theorem witness_EveryStepCompletesUnderTheInvariants :
    State.Inv { loaded goodBytes with pending := [.command 0x52000000] } := loaded_command_inv _

theorem witness_OnlyStopIsAnUnwrittenCell : ({ State.reset with len := 24 } : State).pv = false ∧
    ¬({ State.reset with len := 24 } : State).fb.holdsBelow 24 := by
  refine ⟨rfl, fun h => ?_⟩
  have h0 := h 0 (by omega)
  cases h0

theorem witness_CommandsWriteOnlyTheirState : (faultedBlock.pv = true ∧ ∃ t, exec .decode faultedBlock = .next t) ∧
    ((loaded goodBytes).pv = false ∧ (∃ t, exec .decode (loaded goodBytes) = .next t) ∧
      ∃ t, exec (.push 0x55) (loaded goodBytes) = .next t) ∧
    (State.reset.len ≠ 24 ∧ ∃ t, exec .decode State.reset = .next t) :=
  ⟨⟨rfl, exists_next (by decide +kernel)⟩, ⟨rfl, decode_runs, exists_next (by decide +kernel)⟩, by decide,
    exists_next (by decide +kernel)⟩

theorem witness_AccumulatorIsWrittenAndReadAsSaid :
    (∃ t, exec (.crc2 0xBE 0xEF) State.reset = .next t ∧ t.acc ≠ State.reset.acc) ∧
    (∃ t, exec (.vrec 0xBE 0xEF 0x92) State.reset = .next t) ∧
    ((loaded goodBytes).len = 24 ∧ (loaded goodBytes).fb.read 21 = some 0x00 ∧
      (loaded goodBytes).fb.read 22 = some 0x0A ∧ ∃ t, exec .decode (loaded goodBytes) = .next t) ∧
    Instr.decode ≠ .rdacc :=
  ⟨⟨_, rfl, by decide +kernel⟩, exists_next (by decide +kernel), ⟨rfl, by decide, by decide, decode_runs⟩, by decide⟩

theorem witness_MismatchCounterRule : (∃ t, exec .decode (loaded corruptedBytes) = .next t) ∧
    ∃ t, exec .rst faultedBlock = .next t := ⟨decode_runs_corrupted, exists_next (by decide +kernel)⟩

theorem witness_StatusFlagRules : (∃ t, exec .rst faultedBlock = .next t) ∧ (∃ t, exec .fclr faultedBlock = .next t) ∧
    (∃ t, exec .decode State.reset = .next t) ∧
    ((loaded goodBytes).pv = false ∧ (loaded goodBytes).len = 24 ∧ HoldsFrame (loaded goodBytes) goodRecords ∧
      ∃ t, exec .decode (loaded goodBytes) = .next t) ∧
    (∃ t, exec .rdacc (loaded goodBytes) = .next t) ∧ Instr.decode ≠ .rdst :=
  ⟨exists_next (by decide +kernel), exists_next (by decide +kernel), exists_next (by decide +kernel),
    ⟨rfl, rfl, loaded_good, decode_runs⟩, exists_next (by decide +kernel), by decide⟩

theorem witness_OnlyResetLeavesTheFaultedCondition : (issued (.command 0x01000000) faultedBlock).pv = true ∧
    (∃ t, step (issued (.command 0x01000000) faultedBlock) = .next t) ∧
    ∃ t, step (issued (.command 0x52000000) faultedBlock) = .next t :=
  ⟨rfl, exists_next (by decide +kernel), exists_next (by decide +kernel)⟩

/-- Two buffers that differ at address 5, with `LEN` 0. -/
theorem witness_HiddenCellsCannotBeObserved : SameButHiddenCells { State.reset with fb := [(5, 0xAA)] } State.reset :=
  ⟨rfl, fun a h => absurd h (by simp [State.reset])⟩

theorem witness_PushInvalidatesResults : (loaded goodBytes).pv = false ∧ 24 ≤ (loaded goodBytes).len := by decide

end Sys2Proof.Tests
end

section
/-!
PROOF. The steps without a command (00_scope.md R14, 20_memory.md R47, 70_reset_and_hazards.md R123): what the block takes
from the host, and one equation per step that carries out no command word.
-/

namespace Sys2Proof.Machine

theorem State.takeInput_of_nil {s : State} (h : s.pending = []) : s.takeInput = none := by
  simp [State.takeInput, h]

theorem State.takeInput_of_cons {s : State} {x : HostInput} {rest : List HostInput} (h : s.pending = x :: rest) :
    s.takeInput = some (x, { s with pending := rest }) := by
  simp [State.takeInput, h]

theorem step_of_nil {s : State} (h : s.pending = []) : step s = .next s := by
  simp [step, State.takeInput_of_nil h, idle]

theorem step_of_resetPin {s : State} {rest : List HostInput} (h : s.pending = .resetPin :: rest) :
    step s = .next ({ s with pending := rest } : State).resetBlock := by
  simp [step, State.takeInput_of_cons h, resetPinAsserted]

/-- R94: `RST` is the reset of the block, answered. -/
theorem exec_rst (s : State) : exec .rst s = .next (s.resetBlock.answer .nothing) := rfl

/-- Settles O10: both sides of the reset pin's clause are `State.resetBlock`, which keeps the responses; `RST` answers on
top of it. -/
theorem stepWithoutACommand : Obligations.StepWithoutACommand := by
  refine ⟨fun _ h => step_of_nil h, fun s rest h => ?_⟩
  exact ⟨({ s with pending := rest } : State).resetBlock, step_of_resetPin h, exec_rst _, State.resetBlock_responses _⟩

end Sys2Proof.Machine
end

section
/-!
PROOF. A pause for the compiler, no content. Lean proves the theorems of a text in parallel, and the kernel evaluations of
the tests above keep some forty threads waiting for one another. What follows starts when they are done: started beside them,
it takes the compile of the whole text over the memory limit of check.sh.
-/

set_option linter.unusedTactic false in
example : True := by
  sleep 8000
  trivial

end

section
/-!
PROOF. What a command can do, said once. A faulted block refuses (60_exceptions.md R101); otherwise `CarriedOut i s t` says,
command by command, the next state `t` that carrying out `i` in `s` leaves (the rules of the command families). Together
they are all the next states of `exec` (`exec_next_cases`); the one other outcome is a `DECODE` that stops at an
empty cell (`carriedOut_or_decode_stops`, notes/assumptions/4.md).
-/

namespace Sys2Proof.Machine

/-! ### The state after `PUSH` and after a `DECODE` that does not fault -/

/-- The cells after a `PUSH` at `LEN` `n`: stored below 24, dropped from there on (R43). -/
def Memory.append (m : Memory) (n : Nat) (b : Byte) : Memory := if n ≤ 23 then m.write n b else m

theorem Memory.append_of_le {m : Memory} {n : Nat} {b : Byte} (hn : n ≤ 23) : m.append n b = m.write n b := if_pos hn

theorem Memory.append_of_not_le {m : Memory} {n : Nat} {b : Byte} (hn : ¬n ≤ 23) : m.append n b = m := if_neg hn

theorem Memory.read_append (m : Memory) (n a : Nat) (b : Byte) :
    (m.append n b).read a = if a = n ∧ n ≤ 23 then some b else m.read a := by
  by_cases hn : n ≤ 23
  · simp [Memory.append_of_le hn, hn, Memory.read_write]
  · simp [Memory.append_of_not_le hn, hn]

theorem Memory.wf_append {m : Memory} (n : Nat) (b : Byte) (hm : m.wf) : (m.append n b).wf := by
  by_cases hn : n ≤ 23
  · rw [Memory.append_of_le hn]
    exact Memory.wf_write b hm (by omega)
  · rwa [Memory.append_of_not_le hn]

/-- The block after a `PUSH`, but for the response (R78): `LEN` counts up to 25 (R18). -/
def State.pushed (s : State) (b : Byte) : State :=
  ({ s with fb := s.fb.append s.len b, len := min (s.len + 1) 25 } : State).clearResults

theorem appendByte_eq_append (s : State) (b : Byte) :
    appendByte s b = .ok { s with fb := s.fb.append s.len b, len := min (s.len + 1) 25 } := by
  rw [appendByte_eq]
  by_cases hn : s.len ≤ 23
  · rw [if_pos hn, Memory.append_of_le hn, Nat.min_eq_left (by omega)]
  · rw [if_neg hn, Memory.append_of_not_le hn, Nat.min_eq_right (by omega)]

/-- The mask of a frame: bit `slot` is set when the slot's record does not match (R22, R79). -/
def frameMask (f : Slot → Record) : Byte :=
  BitVec.ofFnLE fun slot : Slot => (f slot).mismatches

theorem frameMask_getLsbD (f : Slot → Record) (slot : Slot) : (frameMask f).getLsbD slot.val = (f slot).mismatches :=
  (BitVec.getLsbD_ofFnLE _ _).trans (dif_pos slot.isLt)

/-- The eight bits of a mask are those of the eight slots. -/
theorem mask_ext {m m' : Byte} (h : ∀ slot : Slot, m.getLsbD slot.val = m'.getLsbD slot.val) : m = m' :=
  BitVec.eq_of_getLsbD_eq fun k hk => h ⟨k, hk⟩

/-- The block after a `DECODE` that found the frame `f`, but for the response (R79). -/
def State.decodedAs (s : State) (f : Slot → Record) : State :=
  { s with
    acc := crc8Two (f 7).b0 (f 7).b1
    res := Vector.ofFn fun slot => (f slot).value
    misMask := frameMask f
    misCnt := addSaturating s.misCnt (allSlots.countP fun slot => (f slot).mismatches)
    done := true }

theorem decodedAs_res (s : State) (f : Slot → Record) (slot : Slot) : (s.decodedAs f).res[slot] = (f slot).value := by
  change (Vector.ofFn fun slot => (f slot).value)[slot] = _
  simp

/-! ### Carrying out a command -/

/-- Carried out in `s`, the command leaves `t`. -/
def CarriedOut (i : Instr) (s t : State) : Prop :=
  match i with
  | .rst => t = s.resetBlock.answer .nothing
  | .rdst => t = s.answer (.status s.status)
  | .crc2 b0 b1 => t = (s.checksum b0 b1).answer (.checksum (crc8Two b0 b1))
  | .vrec b0 b1 c => t = (s.checksum b0 b1).answer (.record (crc8Two b0 b1) (decodeRecord b0 b1 c))
  | .rdacc => t = s.answer (.checksum s.acc)
  | .fclr => t = ({ s with len := 0 } : State).clearResults.answer .nothing
  | .push b => t = (s.pushed b).answer (.length (s.pushed b).lenBits)
  | .decode =>
    s.len ≠ 24 ∧ t = ({ s with pv := true } : State).clearResults.respond .faultPv ∨
    s.len = 24 ∧ ∃ f, HoldsFrame s f ∧ t = (s.decodedAs f).answer (.mismatches (frameMask f))
  | .rdi slot => t = s.answer (.integer s.res[slot])
  | .scl slot v => t = s.answer (.scaled (some (scale slot v)))
  | .rds slot => t = s.answer (.scaled (s.res[slot].map (scale slot)))

/-- The block carries the command out: it is not faulted, or the command is of the system family (R64, R97). -/
def Admitted (i : Instr) (s : State) : Prop := s.pv = false ∨ i = .rst ∨ i = .rdst

/-- Every command but the two of the system family is behind the admission check. -/
theorem exec_of_faulted {i : Instr} {s : State} (hpv : s.pv = true) (hrst : i ≠ .rst) (hrdst : i ≠ .rdst) :
    exec i s = .next (s.respond .errFault) := by
  cases i with
  | rst => exact absurd rfl hrst
  | rdst => exact absurd rfl hrdst
  | _ =>
    simp [exec, execCrc2, execVrec, execRdacc, execFclr, execPush, execDecode, execRdi, execScl, execRds,
      whenOperating_faulted hpv]

/-- `VREC` answers the decoded value, present exactly for a valid record (R71, R76). -/
theorem execVrec_of_operating {s : State} (b0 b1 c : Byte) (hpv : s.pv = false) :
    execVrec b0 b1 c s = .next ((s.checksum b0 b1).answer (.record (crc8Two b0 b1) (decodeRecord b0 b1 c))) := by
  unfold execVrec decodeRecord
  rw [whenOperating_operating hpv]
  by_cases hc : crc8Two b0 b1 = c <;> simp [hc]

theorem execPush_of_operating {s : State} (b : Byte) (hpv : s.pv = false) :
    execPush b s = .next ((s.pushed b).answer (.length (s.pushed b).lenBits)) := by
  unfold execPush
  rw [whenOperating_operating hpv, appendByte_eq_append]
  rfl

theorem execDecode_of_len_ne {s : State} (hpv : s.pv = false) (hlen : s.len ≠ 24) :
    execDecode s = .next (({ s with pv := true } : State).clearResults.respond .faultPv) := by
  simp [execDecode, whenOperating_operating hpv, Config.frameBytes, hlen, raisePreconditionViolation]

theorem execDecode_of_holdsFrame {s : State} {f : Slot → Record} (hpv : s.pv = false) (hlen : s.len = 24)
    (hf : HoldsFrame s f) : execDecode s = .next ((s.decodedAs f).answer (.mismatches (frameMask f))) := by
  obtain ⟨m, hm, hd⟩ := decodeSlots_all hf
  obtain rfl : m = frameMask f := mask_ext fun slot => (hm slot).trans (frameMask_getLsbD f slot).symm
  unfold execDecode
  rw [whenOperating_operating hpv, if_pos (show s.len = Config.frameBytes from hlen), hd]
  rfl

/-- A `DECODE` whose loop stops is the model's fault (notes/assumptions/4.md). -/
theorem execDecode_of_error {s : State} {e : Fault} (hpv : s.pv = false) (hlen : s.len = 24)
    (he : decodeSlots allSlots s 0 = .error e) : execDecode s = .fault e := by
  simp [execDecode, whenOperating_operating hpv, Config.frameBytes, hlen, he]

theorem Admitted.operating {i : Instr} {s : State} (h : Admitted i s) (hrst : i ≠ .rst) (hrdst : i ≠ .rdst) :
    s.pv = false :=
  h.resolve_right (not_or.2 ⟨hrst, hrdst⟩)

/-- A command is admitted, or it is refused by a faulted block. -/
theorem admitted_or_refused (i : Instr) (s : State) : Admitted i s ∨ s.pv = true ∧ i ≠ .rst ∧ i ≠ .rdst := by
  cases hpv : s.pv with
  | false => exact .inl (.inl hpv)
  | true =>
    by_cases hrst : i = .rst
    · exact .inl (.inr (.inl hrst))
    · by_cases hrdst : i = .rdst
      · exact .inl (.inr (.inr hrdst))
      · exact .inr ⟨rfl, hrst, hrdst⟩

theorem CarriedOut.exec_eq {i : Instr} {s t : State} (h : CarriedOut i s t) (hadm : Admitted i s) :
    exec i s = .next t := by
  have hpv := hadm.operating
  cases i with
  | rst => exact h ▸ rfl
  | rdst => exact h ▸ rfl
  | crc2 b0 b1 => obtain rfl := h; simp [exec, execCrc2, whenOperating_operating (hpv nofun nofun)]
  | vrec b0 b1 c => exact h ▸ execVrec_of_operating b0 b1 c (hpv nofun nofun)
  | rdacc => obtain rfl := h; simp [exec, execRdacc, whenOperating_operating (hpv nofun nofun)]
  | fclr => obtain rfl := h; simp [exec, execFclr, whenOperating_operating (hpv nofun nofun)]
  | push b => exact h ▸ execPush_of_operating b (hpv nofun nofun)
  | decode =>
    rcases h with ⟨hlen, rfl⟩ | ⟨hlen, f, hf, rfl⟩
    · exact execDecode_of_len_ne (hpv nofun nofun) hlen
    · exact execDecode_of_holdsFrame (hpv nofun nofun) hlen hf
  | rdi slot => obtain rfl := h; simp [exec, execRdi, whenOperating_operating (hpv nofun nofun)]
  | scl slot v => obtain rfl := h; simp [exec, execScl, whenOperating_operating (hpv nofun nofun)]
  | rds slot => obtain rfl := h; simp [exec, execRds, whenOperating_operating (hpv nofun nofun)]

/-! ### All the next states of `exec` -/

/-- Every command can be carried out, but for a `DECODE` at `LEN` 24 whose loop stops. -/
theorem carriedOut_or_decode_stops (i : Instr) (s : State) :
    (∃ t, CarriedOut i s t) ∨ i = .decode ∧ s.len = 24 ∧ ∃ e, decodeSlots allSlots s 0 = .error e := by
  cases i with
  | decode =>
    by_cases hlen : s.len = 24
    · cases hd : decodeSlots allSlots s 0 with
      | error e => exact .inr ⟨rfl, hlen, e, rfl⟩
      | ok p =>
        choose f hf using fun slot => decodeSlots_ok hd slot (allSlots_complete slot)
        exact .inl ⟨_, .inr ⟨hlen, f, fun slot => readRecord_ok_iff.1 (hf slot), rfl⟩⟩
    · exact .inl ⟨_, .inl ⟨hlen, rfl⟩⟩
  | _ => exact .inl ⟨_, rfl⟩

/-- An admitted command gives a next state exactly by being carried out. -/
theorem exec_next_iff_of_admitted {i : Instr} {s t : State} (hadm : Admitted i s) :
    exec i s = .next t ↔ CarriedOut i s t := by
  refine ⟨fun h => ?_, fun h => h.exec_eq hadm⟩
  rcases carriedOut_or_decode_stops i s with ⟨t', ht'⟩ | ⟨rfl, hlen, e, he⟩
  · obtain rfl : t' = t := by simpa [ht'.exec_eq hadm] using h
    exact ht'
  · have hpv := hadm.operating nofun nofun
    cases (execDecode_of_error hpv hlen he).symm.trans h

/-- A next state comes from the refusal of a faulted block or from carrying the command out. -/
theorem exec_next_cases {i : Instr} {s t : State} (h : exec i s = .next t) :
    (s.pv = true ∧ i ≠ .rst ∧ i ≠ .rdst ∧ t = s.respond .errFault) ∨ Admitted i s ∧ CarriedOut i s t := by
  rcases admitted_or_refused i s with hadm | ⟨hpv, hrst, hrdst⟩
  · exact .inr ⟨hadm, (exec_next_iff_of_admitted hadm).1 h⟩
  · rw [exec_of_faulted hpv hrst hrdst] at h
    exact .inl ⟨hpv, hrst, hrdst, by injection h with h; exact h.symm⟩

/-- At any `LEN` but 24 every command gives a next state. -/
theorem exists_exec_next_of_len_ne {s : State} (hlen : s.len ≠ 24) (i : Instr) : ∃ t, exec i s = .next t := by
  rcases admitted_or_refused i s with hadm | ⟨hpv, hrst, hrdst⟩
  · obtain ⟨t, ht⟩ := (carriedOut_or_decode_stops i s).resolve_right fun ⟨_, h, _⟩ => hlen h
    exact ⟨t, ht.exec_eq hadm⟩
  · exact ⟨_, exec_of_faulted hpv hrst hrdst⟩

/-- Every command that gives a next state produces one response (R55). -/
theorem exec_next_one_response {i : Instr} {s t : State} (h : exec i s = .next t) :
    ∃ r, t.responses = r :: s.responses := by
  rcases exec_next_cases h with ⟨-, -, -, rfl⟩ | ⟨-, h⟩
  · exact ⟨_, rfl⟩
  · cases i with
    | decode => rcases h with ⟨-, rfl⟩ | ⟨-, f, -, rfl⟩ <;> exact ⟨_, rfl⟩
    | _ => obtain rfl := h; exact ⟨_, rfl⟩

/-! ### The step on a command word (R64) -/

theorem step_of_command {s : State} {w : Word32} {rest : List HostInput} {i : Instr}
    (h : s.pending = .command w :: rest) (hw : decode w = .ok i) : step s = exec i { s with pending := rest } := by
  simp [step, State.takeInput_of_cons h, hw]

theorem step_of_illegal {s : State} {w : Word32} {rest : List HostInput} {e : Illegal}
    (h : s.pending = .command w :: rest) (hw : decode w = .error e) :
    step s = .next (({ s with pending := rest } : State).respond .errIllegal) := by
  simp [step, State.takeInput_of_cons h, hw, refuseIllegal]

end Sys2Proof.Machine
end

section
/-!
PROOF. The invariants of 10_state.md R29 hold after reset and are kept by every step: what keeps them is said once for a
state that shows no result, once for a state in which nothing they speak of changed, and once for a completed `DECODE`.
-/

namespace Sys2Proof.Machine

/-! ### States that meet the invariants -/

theorem noResults_get (slot : Slot) : (Vector.replicate 8 (none : Option Raw))[slot] = none := by simp

/-- A state that shows no result meets the invariants as soon as its buffer and `LEN` do. -/
theorem State.Inv.of_noResults {s : State} (hwf : s.fb.wf) (hlen : s.len ≤ 25) (hcells : s.fb.holdsBelow (min s.len 24))
    (hres : s.res = Vector.replicate 8 none) (hdone : s.done = false) (hmask : s.misMask = 0) : s.Inv where
  memory := hwf
  lenBounded := hlen
  faulted _ := ⟨hdone, fun slot => hres ▸ noResults_get slot, hmask⟩
  undecoded _ := ⟨fun slot => hres ▸ noResults_get slot, hmask⟩
  decoded h := by simp [hdone] at h
  pushed := hcells

/-- The invariants do not speak of `ACC`, `MISCNT` and the two lists at the host's side. -/
theorem State.Inv.congr {s : State} (h : s.Inv) (acc misCnt : Byte) (pending : List HostInput)
    (responses : List Response) :
    State.Inv { s with acc := acc, misCnt := misCnt, pending := pending, responses := responses } where
  memory := h.memory
  lenBounded := h.lenBounded
  faulted := h.faulted
  undecoded := h.undecoded
  decoded := h.decoded
  pushed := h.pushed

theorem State.Inv.respond {s : State} (h : s.Inv) (r : Response) : (s.respond r).Inv := h.congr _ _ _ _

theorem State.Inv.checksum_answer {s : State} (h : s.Inv) (b0 b1 : Byte) (a : Answer) :
    ((s.checksum b0 b1).answer a).Inv := h.congr _ _ _ _

/-- Reset keeps the invariants, whatever the buffer holds (R94). -/
theorem State.Inv.resetBlock {s : State} (h : s.Inv) : s.resetBlock.Inv :=
  .of_noResults h.memory (by simp) (Memory.holdsBelow_mono h.pushed (Nat.zero_le _)) rfl rfl rfl

/-- A mask bit of a record is set exactly when its decoded value is absent (R76, R98). -/
theorem Record.mismatches_iff_value_none (r : Record) : r.mismatches = true ↔ r.value = none := by
  simp [Record.mismatches, Record.value, decodeRecord]

theorem Record.mismatches_iff (r : Record) : r.mismatches = true ↔ crc8Two r.b0 r.b1 ≠ r.c := by
  simp [Record.mismatches]

/-! ### Commands and steps keep the invariants -/

/-- The results and the mask of `State.decodedAs` are those of I4 (R29). -/
theorem State.Inv.decodedAs {s : State} {f : Slot → Record} (hs : s.Inv) (hpv : s.pv = false) (hlen : s.len = 24)
    (hf : HoldsFrame s f) : (s.decodedAs f).Inv where
  memory := hs.memory
  lenBounded := hs.lenBounded
  faulted h := Bool.noConfusion (hpv.symm.trans h)
  undecoded h := Bool.noConfusion h
  decoded _ := by
    refine ⟨hpv, hlen, f, hf, fun slot => ⟨decodedAs_res s f slot, ?_⟩⟩
    rw [decodedAs_res]
    exact (frameMask_getLsbD f slot).symm ▸ (f slot).mismatches_iff_value_none
  pushed := hs.pushed

/-- A `PUSH` fills the one cell that `LEN` comes to cover (I5). -/
theorem State.Inv.push {s : State} (hs : s.Inv) (b : Byte) : (s.pushed b).Inv := by
  refine .of_noResults (Memory.wf_append _ b hs.memory) (Nat.min_le_right _ _) (fun a ha => ?_) rfl rfl rfl
  have ha' : a < min (min (s.len + 1) 25) 24 := ha
  change ((s.fb.append s.len b).read a).isSome
  rw [Memory.read_append]
  split
  · rfl
  · exact hs.pushed a (by omega)

/-- Every command that gives a next state keeps the invariants. -/
theorem exec_keeps_inv {i : Instr} {s t : State} (h : exec i s = .next t) (hs : s.Inv) : t.Inv := by
  rcases exec_next_cases h with ⟨-, -, -, rfl⟩ | ⟨hadm, h⟩
  · exact hs.respond _
  cases i with
  | rst => obtain rfl := h; exact hs.resetBlock.respond _
  | crc2 b0 b1 => obtain rfl := h; exact hs.checksum_answer _ _ _
  | vrec b0 b1 c => obtain rfl := h; exact hs.checksum_answer _ _ _
  | fclr =>
    obtain rfl := h
    exact .of_noResults hs.memory (Nat.zero_le _) (Memory.holdsBelow_mono hs.pushed (Nat.zero_le _)) rfl rfl rfl
  | push b => obtain rfl := h; exact (hs.push b).respond _
  | decode =>
    rcases h with ⟨-, rfl⟩ | ⟨hlen, f, hf, rfl⟩
    · exact .of_noResults hs.memory hs.lenBounded hs.pushed rfl rfl rfl
    · exact (hs.decodedAs (hadm.operating nofun nofun) hlen hf).respond _
  | rdst | rdacc | rdi slot | scl slot v | rds slot => obtain rfl := h; exact hs.respond _

/-- Settles O49: a step is idle, a reset, a refusal or a command, and each keeps the invariants. -/
theorem everyStepKeepsTheInvariants : Obligations.EveryStepKeepsTheInvariants := by
  intro s t hs ht
  have taken (rest : List HostInput) : State.Inv { s with pending := rest } := hs.congr _ _ _ _
  rcases hp : s.pending with _ | ⟨x, rest⟩
  · obtain rfl : s = t := by simpa [step_of_nil hp] using ht
    exact hs
  · cases x with
    | resetPin =>
      obtain rfl : ({ s with pending := rest } : State).resetBlock = t := by simpa [step_of_resetPin hp] using ht
      exact (taken rest).resetBlock
    | command w =>
      cases hw : decode w with
      | error e =>
        obtain rfl : ({ s with pending := rest } : State).respond .errIllegal = t := by
          simpa [step_of_illegal hp hw] using ht
        exact (taken rest).respond _
      | ok i =>
        exact exec_keeps_inv ((step_of_command hp hw).symm.trans ht) (taken rest)

/-- Settles O48: after reset the buffer is empty and nothing is shown. -/
theorem resetMeetsTheInvariants : Obligations.ResetMeetsTheInvariants := fun _ =>
  .of_noResults Memory.wf_reset (Nat.zero_le _) (fun _ ha => absurd ha (by simp [State.reset])) rfl rfl rfl

/-- Settles O46: the values are the reset state's own; `RST` answers on top of `State.resetBlock`, and with `LEN` 0 every
command gives a next state with its one response. -/
theorem resetStateValues : Obligations.ResetStateValues := by
  refine ⟨rfl, rfl, noResults_get, rfl, rfl, rfl, rfl, by decide, fun s => ⟨_, exec_rst s, rfl⟩, fun i => ?_⟩
  obtain ⟨t, ht⟩ := exists_exec_next_of_len_ne (s := State.reset) (by decide) i
  obtain ⟨r, hr⟩ := exec_next_one_response ht
  exact ⟨t, r, ht, hr⟩

end Sys2Proof.Machine
end

section
/-!
PROOF. Noninterference: two states that differ only in something a command does not read give outcomes that differ in
nothing else. The cells of the buffer at or above `LEN` (10_state.md R17, R30), `ACC` (R16), `DONE` and `MISMASK` (R27)
are all handled by `exec_alike`: it is enough to match the effects, since only a `DECODE` that finds an empty cell stops.
-/

namespace Sys2Proof.Machine

/-- Two outcomes are next states that stand in a relation, or the same fault. -/
def Alike (R : State → State → Prop) (o o' : Host.Outcome State Fault Refusal) : Prop :=
  (∃ t t', o = .next t ∧ o' = .next t' ∧ R t t') ∨ ∃ e, o = .fault e ∧ o' = .fault e

theorem Alike.next {R : State → State → Prop} {t t' : State} (h : R t t') : Alike R (.next t) (.next t') :=
  .inl ⟨t, t', rfl, rfl, h⟩

/-- The cells of the buffer, 0 to 23, hold the same in both states. -/
def SameCells (s s' : State) : Prop := ∀ a < 24, s'.fb.read a = s.fb.read a

theorem SameCells.readRecord {s s' : State} (h : SameCells s s') (slot : Slot) :
    Machine.readRecord s' slot = Machine.readRecord s slot := by
  have hcell (a : Nat) : memByte s' a = memByte s a := by
    unfold memByte Config.frameBytes
    split
    · rename_i ha
      rw [h a ha]
    · rfl
  simp only [Machine.readRecord, hcell]

theorem SameCells.holdsFrame {s s' : State} (h : SameCells s s') {f : Slot → Record} (hf : HoldsFrame s f) :
    HoldsFrame s' f := fun slot => readRecord_ok_iff.1 ((h.readRecord slot).trans (hf.readRecord slot))

/-- Where the loop of `DECODE` stops depends on the cells alone. -/
theorem SameCells.decodeSlots_error {slots : List Slot} {s s' : State} {n n' : Nat} {e : Fault} (h : SameCells s s')
    (he : decodeSlots slots s n = .error e) : decodeSlots slots s' n' = .error e := by
  induction slots generalizing s s' n n' with
  | nil => simp [decodeSlots] at he
  | cons slot slots ih =>
    cases hr : Machine.readRecord s slot with
    | error e' => simpa [decodeSlots, hr, h.readRecord slot] using he
    | ok r =>
      have hnext : SameCells (decodeSlot s slot r).1 (decodeSlot s' slot r).1 := by
        simp only [decodeSlot_fst]
        exact h
      simp only [decodeSlots, hr] at he
      simp only [decodeSlots, h.readRecord slot, hr]
      exact ih hnext he

/-- Two states that agree on `PV`, on `LEN` and, for a `DECODE` that reads them, on the cells give outcomes alike as soon
as the refusals are related and whatever carrying the command out leaves in the one is related to what it leaves in the
other. -/
theorem exec_alike {R : State → State → Prop} {i : Instr} {s s' : State} (hpv : s'.pv = s.pv) (hlen : s'.len = s.len)
    (hcells : s.len = 24 → SameCells s s') (hrefused : R (s.respond .errFault) (s'.respond .errFault))
    (hR : ∀ t, CarriedOut i s t → ∃ t', CarriedOut i s' t' ∧ R t t') : Alike R (exec i s) (exec i s') := by
  rcases admitted_or_refused i s with hadm | ⟨hp, hrst, hrdst⟩
  · have hadm' : Admitted i s' := hadm.imp_left hpv.trans
    rcases carriedOut_or_decode_stops i s with ⟨t, ht⟩ | ⟨rfl, hl, e, he⟩
    · obtain ⟨t', ht', hrel⟩ := hR t ht
      exact .inl ⟨t, t', ht.exec_eq hadm, ht'.exec_eq hadm', hrel⟩
    · exact .inr ⟨e, execDecode_of_error (hadm.operating nofun nofun) hl he,
        execDecode_of_error (hadm'.operating nofun nofun) (hlen.trans hl) ((hcells hl).decodeSlots_error he)⟩
  · exact .inl ⟨_, _, exec_of_faulted hp hrst hrdst, exec_of_faulted (hpv.trans hp) hrst hrdst, hrefused⟩

/-! ### The hidden cells -/

/-- The buffer of the second state is all that tells the two apart. -/
theorem SameButHiddenCells.exists_memory {s t : State} (h : SameButHiddenCells s t) :
    ∃ m : Memory, t = { s with fb := m } ∧ ∀ a < min s.len 24, s.fb.read a = m.read a := by
  obtain ⟨hs, hcells⟩ := h
  exact ⟨t.fb, by rw [hs], hcells⟩

theorem SameButHiddenCells.withPending {s t : State} (h : SameButHiddenCells s t) (rest : List HostInput) :
    SameButHiddenCells { s with pending := rest } { t with pending := rest } :=
  ⟨congrArg (fun u : State => { u with pending := rest }) h.1, h.2⟩

/-- A byte pushed into both buffers keeps them alike below the new `LEN`: the one cell it uncovers is the one it wrote. -/
theorem read_append_eq_of_below {m m' : Memory} {n : Nat} (b : Byte) (h : ∀ a < min n 24, m.read a = m'.read a) :
    ∀ a < min (min (n + 1) 25) 24, (m.append n b).read a = (m'.append n b).read a := by
  intro a ha
  rw [Memory.read_append, Memory.read_append]
  split
  · rfl
  · exact h a (by omega)

/-- Two states alike but for hidden cells, with the same responses. -/
abbrev AnswersAlike (s t : State) : Prop := SameButHiddenCells s t ∧ s.responses = t.responses

/-- Whatever a command does in a state it does in one that is alike but for hidden cells. -/
theorem CarriedOut.answersAlike {i : Instr} {s u : State} {m : Memory} (h : CarriedOut i s u)
    (hm : ∀ a < min s.len 24, s.fb.read a = m.read a) :
    ∃ u', CarriedOut i { s with fb := m } u' ∧ AnswersAlike u u' := by
  cases i with
  | rst | fclr =>
    obtain rfl := h
    exact ⟨_, rfl, ⟨rfl, fun a ha => absurd (show a < min 0 24 from ha) (by omega)⟩, rfl⟩
  | push b => obtain rfl := h; exact ⟨_, rfl, ⟨rfl, read_append_eq_of_below b hm⟩, rfl⟩
  | decode =>
    rcases h with ⟨hlen, rfl⟩ | ⟨hlen, f, hf, rfl⟩
    · exact ⟨_, .inl ⟨hlen, rfl⟩, ⟨rfl, hm⟩, rfl⟩
    · have hcells : SameCells s { s with fb := m } := fun a ha => (hm a (by omega)).symm
      exact ⟨_, .inr ⟨hlen, f, hcells.holdsFrame hf, rfl⟩, ⟨rfl, hm⟩, rfl⟩
  | rdst | crc2 b0 b1 | vrec b0 b1 c | rdacc | rdi slot | scl slot v | rds slot =>
    obtain rfl := h
    exact ⟨_, rfl, ⟨rfl, hm⟩, rfl⟩

theorem exec_answersAlike (i : Instr) {s t : State} (h : SameButHiddenCells s t) :
    Alike AnswersAlike (exec i s) (exec i t) := by
  obtain ⟨m, rfl, hm⟩ := h.exists_memory
  exact exec_alike rfl rfl (fun hlen a ha => (hm a (by omega)).symm) ⟨⟨rfl, hm⟩, rfl⟩ fun _ hu => hu.answersAlike hm

/-- Settles O57: no command reads a cell at or above `LEN`, and `PUSH` uncovers only the cell it writes; the steps without
a command read none. -/
theorem hiddenCellsCannotBeObserved : Obligations.HiddenCellsCannotBeObserved := by
  intro s t h
  suffices halike : Alike AnswersAlike (step s) (step t) from
    halike.imp_left fun ⟨s', t', hs', ht', hsame, hresp⟩ => ⟨s', t', hs', ht', hsame, hresp⟩
  have hpt : t.pending = s.pending := by rw [h.1]
  rcases hp : s.pending with _ | ⟨x, rest⟩
  · rw [step_of_nil hp, step_of_nil (hpt.trans hp)]
    exact .next ⟨h, by rw [h.1]⟩
  have hrest : SameButHiddenCells { s with pending := rest } { t with pending := rest } := h.withPending rest
  cases x with
  | resetPin =>
    rw [step_of_resetPin hp, step_of_resetPin (hpt.trans hp)]
    obtain ⟨m, hm, -⟩ := hrest.exists_memory
    rw [hm]
    exact .next ⟨⟨rfl, by simp⟩, rfl⟩
  | command w =>
    cases hw : decode w with
    | error e =>
      rw [step_of_illegal hp hw, step_of_illegal (hpt.trans hp) hw]
      obtain ⟨m, hm, hcells⟩ := hrest.exists_memory
      rw [hm]
      exact .next ⟨⟨rfl, hcells⟩, rfl⟩
    | ok i =>
      rw [step_of_command hp hw, step_of_command (hpt.trans hp) hw]
      exact exec_answersAlike i hrest

end Sys2Proof.Machine
end

section
/-!
PROOF. Who writes what (10_state.md R33) and the rules of the single registers: `ACC` (R16), `MISCNT` (R23), and `PV`, `DONE`
and `MISMASK` (R27). Each clause is read off `CarriedOut`, command by command.
-/

namespace Sys2Proof.Machine

/-! ### Frames -/

/-- `PUSH` leaves every cell but the one at `LEN` as it was (R43). -/
theorem pushed_read_other (s : State) (b : Byte) {a : Nat} (h : a ≠ s.len ∨ 24 ≤ s.len) :
    (s.pushed b).fb.read a = s.fb.read a := by
  change (s.fb.append s.len b).read a = _
  rw [Memory.read_append, if_neg (by omega)]

/-- Settles O52: each row of R33 is the record update of its `CarriedOut` clause. -/
theorem commandsWriteOnlyTheirState : Obligations.CommandsWriteOnlyTheirState := by
  refine ⟨fun i s t hpv hrst hrdst h => ?_, fun i s t hpv h => ?_⟩
  · obtain rfl : s.respond .errFault = t := by simpa [exec_of_faulted hpv hrst hrdst] using h
    rfl
  · rw [exec_next_iff_of_admitted (.inl hpv)] at h
    cases i with
    | push b =>
      obtain rfl := h
      exact ⟨rfl, rfl, fun a ha => pushed_read_other s b ha⟩
    | decode =>
      rcases h with ⟨hlen, rfl⟩ | ⟨hlen, f, -, rfl⟩
      · exact ⟨rfl, fun h => absurd h hlen, fun _ => rfl⟩
      · exact ⟨rfl, fun _ => rfl, fun h => absurd hlen h⟩
    | _ => obtain rfl := h; exact ⟨rfl, rfl⟩

/-- No command but `RST` and `DECODE` writes `PV` or `MISCNT` (R33). -/
theorem exec_keeps_pv_misCnt {i : Instr} {s t : State} (h : exec i s = .next t) (hrst : i ≠ .rst)
    (hdecode : i ≠ .decode) : t.pv = s.pv ∧ t.misCnt = s.misCnt := by
  rcases exec_next_cases h with ⟨-, -, -, rfl⟩ | ⟨-, h⟩
  · exact ⟨rfl, rfl⟩
  cases i with
  | rst => exact absurd rfl hrst
  | decode => exact absurd rfl hdecode
  | _ => obtain rfl := h; exact ⟨rfl, rfl⟩

/-! ### `ACC` (R16) -/

/-- The commands that write `ACC`. -/
theorem acc_writers {i : Instr} {s t : State} (h : exec i s = .next t) (hacc : t.acc ≠ s.acc) :
    i = .rst ∨ s.pv = false ∧ ((∃ b0 b1, i = .crc2 b0 b1) ∨ (∃ b0 b1 c, i = .vrec b0 b1 c) ∨
      i = .decode ∧ s.len = 24) := by
  rcases exec_next_cases h with ⟨-, -, -, rfl⟩ | ⟨hadm, h⟩
  · exact absurd rfl hacc
  cases i with
  | rst => exact .inl rfl
  | crc2 b0 b1 => exact .inr ⟨hadm.operating nofun nofun, .inl ⟨b0, b1, rfl⟩⟩
  | vrec b0 b1 c => exact .inr ⟨hadm.operating nofun nofun, .inr (.inl ⟨b0, b1, c, rfl⟩)⟩
  | decode =>
    rcases h with ⟨-, rfl⟩ | ⟨hlen, -⟩
    · exact absurd rfl hacc
    · exact .inr ⟨hadm.operating nofun nofun, .inr (.inr ⟨rfl, hlen⟩)⟩
  | _ => obtain rfl := h; exact absurd rfl hacc

/-- After a `DECODE` that does not fault `ACC` holds the checksum of slot 7's data bytes, at addresses 21 and 22 (R37). -/
theorem decode_acc {s t : State} {b0 b1 : Byte} (hpv : s.pv = false) (hlen : s.len = 24)
    (h0 : s.fb.read 21 = some b0) (h1 : s.fb.read 22 = some b1) (h : exec .decode s = .next t) :
    t.acc = crc8Two b0 b1 := by
  rw [exec_next_iff_of_admitted (.inl hpv)] at h
  rcases h with ⟨hne, -⟩ | ⟨-, f, hf, rfl⟩
  · exact absurd hlen hne
  · obtain ⟨hf0, hf1, -⟩ := hf 7
    obtain rfl : b0 = (f 7).b0 := Option.some.inj (h0.symm.trans hf0)
    obtain rfl : b1 = (f 7).b1 := Option.some.inj (h1.symm.trans hf1)
    rfl

/-- The two states differ in `ACC` at most. -/
abbrev SameButAcc (t t' : State) : Prop := ∃ b, t' = { t with acc := b }

theorem exec_sameButAcc {i : Instr} (s : State) (a : Byte) (hi : i ≠ .rdacc) :
    Alike SameButAcc (exec i s) (exec i { s with acc := a }) := by
  refine exec_alike rfl rfl (fun _ _ _ => rfl) ⟨a, rfl⟩ fun t h => ?_
  cases i with
  | rdacc => exact absurd rfl hi
  | decode =>
    rcases h with ⟨hlen, rfl⟩ | ⟨hlen, f, hf, rfl⟩
    · exact ⟨_, .inl ⟨hlen, rfl⟩, a, rfl⟩
    · exact ⟨_, .inr ⟨hlen, f, hf, rfl⟩, _, rfl⟩
  | _ => obtain rfl := h; exact ⟨_, rfl, _, rfl⟩

/-- Settles O53: the writers and their values are `CarriedOut`'s; `RDACC`'s answer is the only one that names `ACC`. -/
theorem accumulatorIsWrittenAndReadAsSaid : Obligations.AccumulatorIsWrittenAndReadAsSaid := by
  refine ⟨fun _ _ _ => acc_writers, fun s t b0 b1 hpv h => ?_, fun s t b0 b1 c hpv h => ?_,
    fun _ _ _ _ => decode_acc, fun i s a hi => ?_⟩
  · rw [exec_next_iff_of_admitted (.inl hpv)] at h
    exact congrArg State.acc h
  · rw [exec_next_iff_of_admitted (.inl hpv)] at h
    exact congrArg State.acc h
  · rcases exec_sameButAcc s a hi with ⟨t, _, ht, ht', b, rfl⟩ | hfault
    · exact .inl ⟨t, b, ht, ht'⟩
    · exact .inr hfault

/-! ### `MISCNT` (R23) -/

/-- The number of mismatches of a frame is the number of bits of its mask. -/
theorem countP_frameMask (f : Slot → Record) : (allSlots.countP fun slot => (frameMask f).getLsbD slot.val) =
    allSlots.countP fun slot => (f slot).mismatches := by
  simp only [frameMask_getLsbD]

/-- `PV`, `DONE`, `MISMASK` and `MISCNT` at their bits of `STATUS` (R28). -/
theorem status_fields (s : State) : s.status.getLsbD 23 = s.pv ∧ s.status.getLsbD 22 = s.done ∧
    s.status.extractLsb' 8 8 = s.misMask ∧ s.status.extractLsb' 0 8 = s.misCnt := by
  unfold State.status
  refine ⟨?_, ?_, ?_, BitVec.extractLsb'_append_eq_right⟩
  · rw [BitVec.getLsbD_append, BitVec.getLsbD_append, BitVec.getLsbD_append, BitVec.getLsbD_append,
      BitVec.getLsbD_append]
    simp
  · rw [BitVec.getLsbD_append, BitVec.getLsbD_append, BitVec.getLsbD_append, BitVec.getLsbD_append,
      BitVec.getLsbD_append]
    simp
  · apply BitVec.eq_of_getLsbD_eq
    intro k hk
    rw [BitVec.getLsbD_extractLsb', BitVec.getLsbD_append, if_neg (by omega), BitVec.getLsbD_append, if_pos (by omega)]
    simp [hk]

/-- Settles O54: `RST` writes 0, a `DECODE` that does not fault adds the bits of the mask it writes, and no other command
writes `MISCNT`. -/
theorem mismatchCounterRule : Obligations.MismatchCounterRule := by
  refine ⟨fun i s t h => ?_, fun s => (status_fields s).2.2.2⟩
  by_cases hrst : i = .rst
  · subst hrst
    obtain rfl : s.resetBlock.answer .nothing = t := by simpa [exec_rst] using h
    rfl
  rw [if_neg hrst]
  by_cases hdecode : i = .decode
  · subst hdecode
    rcases exec_next_cases h with ⟨hpv, -, -, rfl⟩ | ⟨hadm, ⟨hlen, rfl⟩ | ⟨hlen, f, -, rfl⟩⟩
    · simp [hpv]
    · simp [hlen]
    · rw [if_pos ⟨rfl, hadm.operating nofun nofun, hlen⟩]
      exact congrArg (addSaturating s.misCnt) (countP_frameMask f).symm
  · rw [if_neg fun h => hdecode h.1]
    exact (exec_keeps_pv_misCnt h hrst hdecode).2

/-! ### `PV`, `DONE` and `MISMASK` (R27) -/

/-- `PV` is set by a `DECODE` at another `LEN` than 24, and cleared by `RST` alone. -/
theorem pv_after {i : Instr} {s t : State} (h : exec i s = .next t) :
    t.pv = true ↔ i ≠ .rst ∧ (s.pv = true ∨ i = .decode ∧ s.len ≠ 24) := by
  by_cases hrst : i = .rst
  · subst hrst
    obtain rfl : s.resetBlock.answer .nothing = t := by simpa [exec_rst] using h
    simp
  by_cases hdecode : i = .decode
  · subst hdecode
    rcases exec_next_cases h with ⟨hpv, -, -, rfl⟩ | ⟨-, ⟨hlen, rfl⟩ | ⟨hlen, f, -, rfl⟩⟩
    · simp [hpv]
    · simp [hlen]
    · change s.pv = true ↔ _
      simp [hlen]
  · simp [(exec_keeps_pv_misCnt h hrst hdecode).1, hrst, hdecode]

/-- The two states agree on `DONE` and `MISMASK`. -/
abbrev SameFlags (t s : State) : Prop := t.done = s.done ∧ t.misMask = s.misMask

/-- The commands that write `DONE` and `MISMASK`. -/
theorem sameFlags_of_other {i : Instr} {s t : State} (h : exec i s = .next t) (hrst : i ≠ .rst) (hfclr : i ≠ .fclr)
    (hpush : ∀ b, i ≠ .push b) (hdecode : i ≠ .decode) : SameFlags t s := by
  rcases exec_next_cases h with ⟨-, -, -, rfl⟩ | ⟨-, h⟩
  · exact ⟨rfl, rfl⟩
  cases i with
  | rst => exact absurd rfl hrst
  | fclr => exact absurd rfl hfclr
  | push b => exact absurd rfl (hpush b)
  | decode => exact absurd rfl hdecode
  | _ => obtain rfl := h; exact ⟨rfl, rfl⟩

/-- A faulted block keeps `DONE` and `MISMASK` until `RST`. -/
theorem sameFlags_of_faulted {i : Instr} {s t : State} (h : exec i s = .next t) (hrst : i ≠ .rst)
    (hpv : s.pv = true) : SameFlags t s := by
  rcases exec_next_cases h with ⟨-, -, -, rfl⟩ | ⟨hadm, h⟩
  · exact ⟨rfl, rfl⟩
  · obtain rfl : i = .rdst := (hadm.resolve_left (by simp [hpv])).resolve_left hrst
    obtain rfl := h
    exact ⟨rfl, rfl⟩

/-- `FCLR`, `PUSH` and a `DECODE` that faults clear both. -/
theorem flags_cleared {i : Instr} {s t : State} (h : exec i s = .next t) (hpv : s.pv = false)
    (hi : i = .fclr ∨ (∃ b, i = .push b) ∨ i = .decode ∧ s.len ≠ 24) : t.done = false ∧ t.misMask = 0 := by
  rw [exec_next_iff_of_admitted (.inl hpv)] at h
  rcases hi with rfl | ⟨b, rfl⟩ | ⟨rfl, hne⟩
  · obtain rfl := h
    exact ⟨rfl, rfl⟩
  · obtain rfl := h
    exact ⟨rfl, rfl⟩
  · rcases h with ⟨-, rfl⟩ | ⟨hlen, -⟩
    · exact ⟨rfl, rfl⟩
    · exact absurd hlen hne

/-- A `DECODE` that does not fault sets `DONE`, and the mask bits of the records that do not match. -/
theorem decode_flags {s t : State} (h : exec .decode s = .next t) (hpv : s.pv = false) (hlen : s.len = 24) :
    t.done = true ∧ ∀ f, HoldsFrame s f → ∀ slot : Slot,
      (t.misMask.getLsbD slot.val = true ↔ crc8Two (f slot).b0 (f slot).b1 ≠ (f slot).c) := by
  rw [exec_next_iff_of_admitted (.inl hpv)] at h
  rcases h with ⟨hne, -⟩ | ⟨-, f, hf, rfl⟩
  · exact absurd hlen hne
  · refine ⟨rfl, fun g hg slot => ?_⟩
    obtain rfl : f = g := hf.unique hg
    change (frameMask f).getLsbD slot.val = true ↔ _
    rw [frameMask_getLsbD, Record.mismatches_iff]

/-- The two states differ in `DONE` and `MISMASK` at most. -/
abbrev SameButFlags (t t' : State) : Prop := ∃ d m, t' = { t with done := d, misMask := m }

theorem exec_sameButFlags {i : Instr} (s : State) (d : Bool) (m : Byte) (hi : i ≠ .rdst) :
    Alike SameButFlags (exec i s) (exec i { s with done := d, misMask := m }) := by
  refine exec_alike rfl rfl (fun _ _ _ => rfl) ⟨d, m, rfl⟩ fun t h => ?_
  cases i with
  | rdst => exact absurd rfl hi
  | decode =>
    rcases h with ⟨hlen, rfl⟩ | ⟨hlen, f, hf, rfl⟩
    · exact ⟨_, .inl ⟨hlen, rfl⟩, _, _, rfl⟩
    · exact ⟨_, .inr ⟨hlen, f, hf, rfl⟩, _, _, rfl⟩
  | _ => obtain rfl := h; exact ⟨_, rfl, _, _, rfl⟩

/-- Settles O55: the rows of R27's table, one lemma each; `RDST`'s answer is the only one that names `DONE` or `MISMASK`
before the command writes them. -/
theorem statusFlagRules : Obligations.StatusFlagRules := by
  refine ⟨fun i s t h => ⟨pv_after h, ?_, sameFlags_of_faulted h, flags_cleared h, ?_, sameFlags_of_other h⟩,
    fun i s d m hi => ?_, fun s => ?_, rfl, rfl, rfl⟩
  · rintro rfl
    obtain rfl : s.resetBlock.answer .nothing = t := by simpa [exec_rst] using h
    exact ⟨rfl, rfl⟩
  · rintro hpv rfl hlen
    exact decode_flags h hpv hlen
  · rcases exec_sameButFlags s d m hi with ⟨t, _, ht, ht', d', m', rfl⟩ | hfault
    · exact .inl ⟨t, d', m', ht, ht'⟩
    · exact .inr hfault
  · obtain ⟨hpv, hdone, hmask, -⟩ := status_fields s
    exact ⟨hpv, hdone, hmask⟩

end Sys2Proof.Machine
end

section
/-!
PROOF. A run of `PUSH` commands into an empty buffer (10_state.md R18, 20_memory.md R39, R43): by induction on the last byte
pushed, each byte lands at its own address and `LEN` counts up to 25.
-/

namespace Sys2Proof.Machine

/-- The block after a `PUSH` that is carried out and answered. -/
def State.pushAnswered (s : State) (b : Byte) : State := (s.pushed b).answer (.length (s.pushed b).lenBits)

/-- The block after a run of `PUSH` commands. -/
def State.pushedAll (s : State) (bytes : List Byte) : State := bytes.foldl State.pushAnswered s

theorem pushedAll_concat (s : State) (bytes : List Byte) (b : Byte) :
    s.pushedAll (bytes ++ [b]) = (s.pushedAll bytes).pushAnswered b := List.foldl_concat ..

theorem execAll_push {s : State} (bytes : List Byte) (hpv : s.pv = false) :
    execAll (bytes.map .push) s = .next (s.pushedAll bytes) := by
  induction bytes generalizing s with
  | nil => rfl
  | cons b bytes ih =>
    have hb : exec (.push b) s = .next (s.pushAnswered b) := execPush_of_operating b hpv
    simp only [List.map_cons, execAll, hb]
    exact ih hpv

/-- `PUSH` writes none of these three registers (R33). -/
theorem pushedAll_registers (s : State) (bytes : List Byte) : (s.pushedAll bytes).pv = s.pv ∧
    (s.pushedAll bytes).misCnt = s.misCnt ∧ (s.pushedAll bytes).acc = s.acc := by
  induction bytes generalizing s with
  | nil => exact ⟨rfl, rfl, rfl⟩
  | cons b bytes ih => exact ih (s.pushAnswered b)

theorem pushedAll_len {s : State} (bytes : List Byte) (hlen : s.len = 0) :
    (s.pushedAll bytes).len = min bytes.length 25 := by
  induction bytes using List.reverseRecOn with
  | nil => exact hlen
  | append_singleton bytes b ih =>
    have hb : ((s.pushedAll bytes).pushAnswered b).len = min ((s.pushedAll bytes).len + 1) 25 := rfl
    rw [pushedAll_concat, hb, ih, List.length_append, List.length_singleton]
    omega

/-- The bytes stand from address 0 on, as far as the buffer reaches; every other cell is as it was. -/
theorem pushedAll_read {s : State} (bytes : List Byte) (hlen : s.len = 0) (a : Nat) : (s.pushedAll bytes).fb.read a =
    if a < min bytes.length 24 then bytes[a]? else s.fb.read a := by
  induction bytes using List.reverseRecOn with
  | nil => exact (if_neg (by simp)).symm
  | append_singleton bytes b ih =>
    have hb : ((s.pushedAll bytes).pushAnswered b).fb.read a =
        if a = (s.pushedAll bytes).len ∧ (s.pushedAll bytes).len ≤ 23 then some b else (s.pushedAll bytes).fb.read a :=
      Memory.read_append _ _ _ _
    rw [pushedAll_concat, hb, ih, pushedAll_len bytes hlen, List.length_append, List.length_singleton]
    by_cases hnew : a = bytes.length ∧ a < 24
    · obtain ⟨rfl, hlt⟩ := hnew
      rw [if_pos (by omega), if_pos (by omega), List.getElem?_concat_length]
    · rw [if_neg (by omega)]
      by_cases hold : a < min bytes.length 24
      · rw [if_pos hold, if_pos (by omega), List.getElem?_append_left (by omega)]
      · rw [if_neg hold, if_neg (by omega)]

/-- Settles O39: the run of `PUSH` commands from `LEN` 0. -/
theorem pushedBytesStandInOrder : Obligations.PushedBytesStandInOrder := by
  intro bytes s hpv hlen
  obtain ⟨hpv', hcnt, hacc⟩ := pushedAll_registers s bytes
  refine ⟨s.pushedAll bytes, execAll_push bytes hpv, pushedAll_len bytes hlen, fun k hk => ?_, fun a ha => ?_,
    hpv'.trans hpv, hcnt, hacc⟩
  · rw [pushedAll_read bytes hlen, if_pos hk]
  · rw [pushedAll_read bytes hlen, if_neg (by omega)]

end Sys2Proof.Machine
end

section
/-!
PROOF. A step on a legal command word (30_encoding.md R64), and the model's only stop (notes/assumptions/4.md): a `DECODE`
at `LEN` 24 that finds a cell without a value (20_memory.md R44). The loop of `DECODE` ends only on a whole frame, and a
frame fills all 24 cells.
-/

namespace Sys2Proof.Machine

/-- Settles O9: the step's own equation on a word that decodes. -/
theorem stepRunsTheDecodedCommand : Obligations.StepRunsTheDecodedCommand := fun _ _ _ _ => step_of_command

/-- The eight records of a frame cover the buffer: address `a` lies in the record of slot `a / 3` (R37). -/
theorem HoldsFrame.holdsBelow {s : State} {f : Slot → Record} (hf : HoldsFrame s f) : s.fb.holdsBelow 24 := by
  intro a ha
  obtain ⟨h0, h1, h2⟩ := hf ⟨a / 3, by omega⟩
  obtain h | h | h : a = 3 * (a / 3) ∨ a = 3 * (a / 3) + 1 ∨ a = 3 * (a / 3) + 2 := by omega
  · exact Option.isSome_of_eq_some ((congrArg s.fb.read h).trans h0)
  · exact Option.isSome_of_eq_some ((congrArg s.fb.read h).trans h1)
  · exact Option.isSome_of_eq_some ((congrArg s.fb.read h).trans h2)

/-- A `DECODE` at `LEN` 24 that gives a next state has found a value in every cell. -/
theorem holdsBelow_of_exec_decode {s t : State} (hpv : s.pv = false) (hlen : s.len = 24)
    (h : exec .decode s = .next t) : s.fb.holdsBelow 24 := by
  rw [exec_next_iff_of_admitted (.inl hpv)] at h
  rcases h with ⟨hne, -⟩ | ⟨-, f, hf, -⟩
  · exact absurd hlen hne
  · exact hf.holdsBelow

/-- The command is a `DECODE` that stops at a cell that holds no value. -/
abbrev StopsAtEmptyCell (i : Instr) (s : State) : Prop :=
  i = .decode ∧ s.pv = false ∧ s.len = 24 ∧ ∃ a < 24, s.fb.read a = none ∧ exec i s = .fault (.unwrittenCell a)

/-- A refused command and a command that can be carried out give a next state; what is left is the `DECODE` whose loop
stops. -/
theorem exec_next_or_stops (i : Instr) (s : State) : (∃ t, exec i s = .next t) ∨ StopsAtEmptyCell i s := by
  rcases admitted_or_refused i s with hadm | ⟨hpv, hrst, hrdst⟩
  · rcases carriedOut_or_decode_stops i s with ⟨t, ht⟩ | ⟨rfl, hlen, e, he⟩
    · exact .inl ⟨t, ht.exec_eq hadm⟩
    · have hpv := hadm.operating nofun nofun
      obtain ⟨a, ha, hread, rfl⟩ := decodeSlots_error he
      exact .inr ⟨rfl, hpv, hlen, a, ha, hread, execDecode_of_error hpv hlen he⟩
  · exact .inl ⟨_, exec_of_faulted hpv hrst hrdst⟩

/-- Settles O51: the only outcome beside a next state is the stop, and with an empty cell `DECODE` has no next state. -/
theorem onlyStopIsAnUnwrittenCell : Obligations.OnlyStopIsAnUnwrittenCell := by
  refine ⟨exec_next_or_stops, fun s hpv hlen hempty => ?_⟩
  rcases exec_next_or_stops .decode s with ⟨t, ht⟩ | ⟨-, -, -, hstop⟩
  · exact absurd (holdsBelow_of_exec_decode hpv hlen ht) hempty
  · exact hstop

end Sys2Proof.Machine
end

section
/-!
PROOF. Decoding and encoding (30_encoding.md R53, R58, R63). The clauses of R63 are said once, for every command
(`decode_of_opcode`): a word with the command's opcode is the command whose operands are the word's fields
(`Instr.withOperand`), or it is refused for a reserved bit.
-/

-- One proof at a time: side by side, on the many threads that the tests above leave behind, these proofs take the
-- compile of the whole text over the memory limit of check.sh.
set_option Elab.async false

namespace Sys2Proof

/-! ### Reserved operand bits -/

/-- The mask of the upper bits of an operand tests the field that stands there. -/
theorem and_upper_eq_zero_iff {n m : Nat} (x : BitVec (n + m)) :
    x &&& (BitVec.allOnes n ++ 0#m) = 0#(n + m) ↔ x.extractLsb' m n = 0#n := by
  have hx : x.extractLsb' m n ++ x.extractLsb' 0 m = x := by
    rw [BitVec.extractLsb'_append_extractLsb'_eq_extractLsb' (Nat.zero_add m).symm, BitVec.extractLsb'_eq_self]
  have hand : x &&& (BitVec.allOnes n ++ 0#m) = x.extractLsb' m n ++ 0#m := by
    conv_lhs => rw [← hx, BitVec.and_append, BitVec.and_allOnes, BitVec.and_zero]
  rw [hand, ← BitVec.zero_append_zero]
  constructor
  · intro h
    calc x.extractLsb' m n = (x.extractLsb' m n ++ 0#m).extractLsb' m n := BitVec.extractLsb'_append_eq_left.symm
      _ = (0#n ++ 0#m).extractLsb' m n := congrArg _ h
      _ = 0#n := BitVec.extractLsb'_append_eq_left
  · intro h
    rw [h]

theorem accepts_Z {x : Word24} : Format.accepts .Z x = true ↔ x = 0 :=
  beq_iff_eq.trans (by rw [show Format.reserved .Z = BitVec.allOnes 24 from rfl, BitVec.and_allOnes])

theorem accepts_B {x : Word24} : Format.accepts .B x = true ↔ x.extractLsb' 8 16 = 0 :=
  beq_iff_eq.trans (and_upper_eq_zero_iff (n := 16) (m := 8) x)

theorem accepts_S {x : Word24} : Format.accepts .S x = true ↔ x.extractLsb' 3 21 = 0 :=
  beq_iff_eq.trans (and_upper_eq_zero_iff (n := 21) (m := 3) x)

theorem accepts_W2 {x : Word24} : Format.accepts .W2 x = true ↔ x.extractLsb' 16 8 = 0 :=
  beq_iff_eq.trans (and_upper_eq_zero_iff (n := 8) (m := 16) x)

theorem accepts_W3 (x : Word24) : Format.accepts .W3 x = true := beq_iff_eq.2 (BitVec.and_zero)

theorem accepts_SV {x : Word24} : Format.accepts .SV x = true ↔ x.extractLsb' 19 5 = 0 :=
  beq_iff_eq.trans (and_upper_eq_zero_iff (n := 5) (m := 19) x)

/-! ### Operands of a command -/

/-- The command of the same mnemonic whose operands are the fields of `x` (R53, R54). -/
def Instr.withOperand : Instr → Word24 → Instr
  | .rst, _ => .rst
  | .rdst, _ => .rdst
  | .crc2 _ _, x => .crc2 (x.extractLsb' 8 8) (x.extractLsb' 0 8)
  | .vrec _ _ _, x => .vrec (x.extractLsb' 16 8) (x.extractLsb' 8 8) (x.extractLsb' 0 8)
  | .rdacc, _ => .rdacc
  | .fclr, _ => .fclr
  | .push _, x => .push (x.extractLsb' 0 8)
  | .decode, _ => .decode
  | .rdi _, x => .rdi (slotOfBits (x.extractLsb' 0 3))
  | .scl _ _, x => .scl (slotOfBits (x.extractLsb' 16 3)) (x.extractLsb' 0 16)
  | .rds _, x => .rds (slotOfBits (x.extractLsb' 0 3))

@[simp] theorem withOperand_opcode (i : Instr) (x : Word24) : (i.withOperand x).opcode = i.opcode := by
  cases i <;> rfl

/-- Reading a command's own operand gives the command back. -/
theorem withOperand_operand (i : Instr) : i.withOperand i.operand = i := by
  cases i with
  | rst | rdst | rdacc | fclr | decode => rfl
  | crc2 b0 b1 =>
    obtain ⟨-, h0, h1⟩ := threeBytes_fields 0#8 b0 b1
    exact congrArg₂ Instr.crc2 h0 h1
  | vrec b0 b1 c =>
    obtain ⟨h0, h1, hc⟩ := threeBytes_fields b0 b1 c
    simp only [Instr.withOperand, Instr.operand, h0, h1, hc]
  | push b => exact congrArg Instr.push (byteOperand_fields b).2
  | rdi slot => exact congrArg (fun k => Instr.rdi (slotOfBits k)) (slotOperand_fields (slotBits slot)).2
  | scl slot v =>
    obtain ⟨-, hslot, hv⟩ := slotValueOperand_fields (slotBits slot) v
    exact congrArg₂ (fun k v => Instr.scl (slotOfBits k) v) hslot hv
  | rds slot => exact congrArg (fun k => Instr.rds (slotOfBits k)) (slotOperand_fields (slotBits slot)).2

/-- Two neighbouring fields, one above the other, are one field. -/
theorem extract_append_extract (x : Word24) {lo n m : Nat} :
    x.extractLsb' (lo + m) n ++ x.extractLsb' lo m = x.extractLsb' lo (n + m) :=
  BitVec.extractLsb'_append_extractLsb'_eq_extractLsb' rfl

theorem zero_append_extract {x : Word24} {lo n m : Nat} (h : x.extractLsb' (lo + m) n = 0#n) :
    0#n ++ x.extractLsb' lo m = x.extractLsb' lo (n + m) := by
  rw [← h, extract_append_extract]

/-- Laying out the fields of an accepted operand gives the operand back. -/
theorem operand_withOperand {i : Instr} {x : Word24} (h : i.format.accepts x = true) :
    (i.withOperand x).operand = x := by
  have whole : x.extractLsb' 0 24 = x := BitVec.extractLsb'_eq_self
  cases i with
  | rst | rdst | rdacc | fclr | decode => exact (accepts_Z.1 h).symm
  | crc2 b0 b1 =>
    have upper : 0#8 ++ x.extractLsb' 8 8 = x.extractLsb' 8 16 := zero_append_extract (accepts_W2.1 h)
    exact (congrArg (· ++ x.extractLsb' 0 8) upper).trans ((extract_append_extract x).trans whole)
  | vrec b0 b1 c =>
    have upper : x.extractLsb' 16 8 ++ x.extractLsb' 8 8 = x.extractLsb' 8 16 := extract_append_extract x
    exact (congrArg (· ++ x.extractLsb' 0 8) upper).trans ((extract_append_extract x).trans whole)
  | push b => exact (zero_append_extract (accepts_B.1 h)).trans whole
  | rdi slot | rds slot => exact (zero_append_extract (accepts_S.1 h)).trans whole
  | scl slot v =>
    have upper : 0#5 ++ x.extractLsb' 16 3 = x.extractLsb' 16 8 := zero_append_extract (accepts_SV.1 h)
    exact (congrArg (· ++ x.extractLsb' 0 16) upper).trans ((extract_append_extract x).trans whole)

theorem accepts_operand (i : Instr) : i.format.accepts i.operand = true := by
  cases i with
  | rst | rdst | rdacc | fclr | decode => exact accepts_Z.2 rfl
  | crc2 b0 b1 => exact accepts_W2.2 (threeBytes_fields 0 b0 b1).1
  | vrec b0 b1 c => exact accepts_W3 _
  | push b => exact accepts_B.2 (byteOperand_fields b).1
  | rdi slot | rds slot => exact accepts_S.2 (slotOperand_fields _).1
  | scl slot v => exact accepts_SV.2 (slotValueOperand_fields _ v).1

/-! ### The opcode map (R58) -/

/-- What a row says of its commands: mnemonic, opcode and format. -/
def OpRow.heading (row : OpRow) : String × Byte × Format := (row.mnemonic, row.opcode, row.format)

/-- What a command's row says of it. -/
def Instr.heading (i : Instr) : String × Byte × Format := (i.mnemonic, i.opcode, i.format)

theorem heading_eq_iff {i : Instr} {row : OpRow} :
    i.heading = row.heading ↔ i.mnemonic = row.mnemonic ∧ i.opcode = row.opcode ∧ i.format = row.format := by
  simp only [Instr.heading, OpRow.heading, Prod.mk.injEq]

@[simp] theorem withOperand_heading (i : Instr) (x : Word24) : (i.withOperand x).heading = i.heading := by
  cases i <;> rfl

/-- One command of each row, every operand 0. -/
def oneOfEachRow : List Instr :=
  [.rst, .rdst, .crc2 0 0, .vrec 0 0 0, .rdacc, .fclr, .push 0, .decode, .rdi 0, .scl 0 0, .rds 0]

theorem headings_eq : oneOfEachRow.map Instr.heading = opcodeMap.map OpRow.heading := rfl

theorem withOperand_zero_mem (i : Instr) : i.withOperand 0 ∈ oneOfEachRow := by
  cases i <;> exact List.mem_of_elem_eq_true rfl

theorem exists_row (i : Instr) : ∃ row ∈ opcodeMap, i.heading = row.heading := by
  have h : (i.withOperand 0).heading ∈ opcodeMap.map OpRow.heading :=
    headings_eq ▸ List.mem_map_of_mem (withOperand_zero_mem i)
  obtain ⟨row, hrow, heq⟩ := List.mem_map.1 h
  exact ⟨row, hrow, (withOperand_heading i 0).symm.trans heq.symm⟩

theorem exists_instr_of_row {row : OpRow} (hrow : row ∈ opcodeMap) : ∃ i : Instr, i.heading = row.heading := by
  have h : row.heading ∈ oneOfEachRow.map Instr.heading := headings_eq ▸ List.mem_map_of_mem hrow
  obtain ⟨i, -, heq⟩ := List.mem_map.1 h
  exact ⟨i, heq⟩

theorem commandOpcodes_eq : commandOpcodes = opcodeMap.map OpRow.opcode := rfl

/-- No opcode stands in two rows. -/
theorem row_eq_of_opcode_eq {row row' : OpRow} (h : row ∈ opcodeMap) (h' : row' ∈ opcodeMap)
    (hop : row.opcode = row'.opcode) : row = row' :=
  List.inj_on_of_nodup_map (f := OpRow.opcode) (by decide) h h' hop

theorem mem_commandOpcodes_iff {op : Byte} : op ∈ commandOpcodes ↔ ∃ i : Instr, i.opcode = op := by
  rw [commandOpcodes_eq, List.mem_map]
  constructor
  · rintro ⟨row, hrow, rfl⟩
    obtain ⟨i, hi⟩ := exists_instr_of_row hrow
    obtain ⟨-, hop, -⟩ := heading_eq_iff.1 hi
    exact ⟨i, hop⟩
  · rintro ⟨i, rfl⟩
    obtain ⟨row, hrow, hi⟩ := exists_row i
    obtain ⟨-, hop, -⟩ := heading_eq_iff.1 hi
    exact ⟨row, hrow, hop.symm⟩

/-- The match and the mask of a row test the opcode and the reserved bits of the operand. -/
theorem row_matches_iff {row : OpRow} (hrow : row ∈ opcodeMap) (w : Word32) :
    w &&& row.mask = row.pattern ↔ opcodeOf w = row.opcode ∧ row.format.accepts (operandOf w) = true := by
  have parts : ∀ row ∈ opcodeMap, opcodeOf row.mask = BitVec.allOnes 8 ∧ opcodeOf row.pattern = row.opcode ∧
      operandOf row.mask = row.format.reserved ∧ operandOf row.pattern = 0 := by decide
  obtain ⟨hmask, hpattern, hmask', hpattern'⟩ := parts row hrow
  have h := row.matches_append (opcodeOf w) (operandOf w)
  rwa [← word_eq, hmask, hpattern, hmask', hpattern', BitVec.and_allOnes, OpRow.matches, beq_iff_eq, ← beq_iff_eq
    (a := operandOf w &&& row.format.reserved)] at h

/-! ### The decoder, opcode by opcode -/

/-- The clause of R63 for the opcode of a command: the operand's fields, or the refusal of a reserved bit. -/
theorem decode_of_opcode {w : Word32} (i : Instr) (h : opcodeOf w = i.opcode) :
    decode w = if i.format.accepts (operandOf w) then .ok (i.withOperand (operandOf w))
      else .error (.reservedOperandBits (opcodeOf w) (operandOf w)) := by
  have hreason : illegalReason (opcodeOf w) (operandOf w) = .reservedOperandBits (opcodeOf w) (operandOf w) :=
    if_pos (mem_commandOpcodes_iff.2 ⟨i, h.symm⟩)
  simp only [decode, hreason]
  generalize opcodeOf w = op at h ⊢
  -- Each opcode fails every condition of the chain but that of its own clause.
  cases i with
  | _ =>
    simp only [h, Instr.opcode, BitVec.reduceEq, false_and, true_and, if_false, if_true, Instr.format, accepts_Z,
      accepts_B, accepts_S, accepts_W2, accepts_W3, accepts_SV, Instr.withOperand]

theorem decode_of_reserved_opcode {w : Word32} (h : opcodeOf w ∉ commandOpcodes) :
    decode w = .error (.reservedOpcode (opcodeOf w)) := by
  have hreason : illegalReason (opcodeOf w) (operandOf w) = .reservedOpcode (opcodeOf w) := if_neg h
  simp only [commandOpcodes, List.mem_cons, List.not_mem_nil, or_false, not_or] at h
  simp only [decode, h, hreason, false_and, if_false]

/-- A word is a command's exactly when it is its encoding. -/
theorem encode_eq_iff {i : Instr} {w : Word32} : encode i = w ↔ i.opcode = opcodeOf w ∧ i.operand = operandOf w := by
  constructor
  · rintro rfl
    exact ⟨(opcodeOf_encode i).symm, (operandOf_encode i).symm⟩
  · rintro ⟨hop, hx⟩
    rw [word_eq w, ← hop, ← hx]
    rfl

theorem decode_encode (i : Instr) : decode (encode i) = .ok i := by
  rw [decode_of_opcode i (opcodeOf_encode i), operandOf_encode, if_pos (accepts_operand i), withOperand_operand]

theorem encode_of_decode {w : Word32} {i : Instr} (h : decode w = .ok i) : encode i = w := by
  by_cases hop : opcodeOf w ∈ commandOpcodes
  · obtain ⟨j, hj⟩ := mem_commandOpcodes_iff.1 hop
    rw [decode_of_opcode j hj.symm] at h
    split at h
    · rename_i hacc
      obtain rfl : j.withOperand (operandOf w) = i := by injection h
      exact encode_eq_iff.2 ⟨(withOperand_opcode j _).trans hj, operand_withOperand hacc⟩
    · cases h
  · rw [decode_of_reserved_opcode hop] at h
    cases h

theorem decode_eq_ok_iff {w : Word32} {i : Instr} : decode w = .ok i ↔ encode i = w :=
  ⟨encode_of_decode, fun h => h ▸ decode_encode i⟩

theorem encode_injective : Function.Injective encode := by
  intro i j h
  have hj : decode (encode i) = .ok j := decode_eq_ok_iff.2 h.symm
  exact Except.ok.inj ((decode_encode i).symm.trans hj)

/-! ### The number of legal words -/

theorem card_bitVec (n : Nat) : Nat.card (BitVec n) = 2 ^ n := by
  rw [Nat.card_congr BitVec.equivFin.toEquiv, Nat.card_fin]

/-- A command is one of the eleven of R58, in its order, and its operands. -/
def instrEquiv : Unit ⊕ Unit ⊕ ((_ : Byte) × Byte) ⊕ ((_ : Byte) × (_ : Byte) × Byte) ⊕ Unit ⊕ Unit ⊕ Byte ⊕ Unit ⊕
    Slot ⊕ ((_ : Slot) × Raw) ⊕ Slot ≃ Instr :=
  proxy_equiv% Instr

/-- Two operands, one after the other, are chosen independently. -/
theorem card_operands (α β : Type) : Nat.card ((_ : α) × β) = Nat.card α * Nat.card β :=
  (Nat.card_congr (Equiv.sigmaEquivProd α β)).trans (Nat.card_prod α β)

theorem card_instr : Nat.card Instr = 17367317 := by
  rw [← Nat.card_congr instrEquiv]
  simp only [Nat.card_sum, card_operands, card_bitVec, Nat.card_unique, Nat.card_fin]
  norm_num

/-- Settles O4: decoding inverts encoding opcode by opcode, so the legal words are the range of an injective function on
commands, and those are counted by their operands. -/
theorem encodeAndDecodeAreInverse : Obligations.EncodeAndDecodeAreInverse := by
  refine ⟨decode_encode, fun _ _ => encode_of_decode, fun _ _ h => encode_injective h, ?_⟩
  simp only [decode_eq_ok_iff]
  exact (Nat.card_range_of_injective encode_injective).trans card_instr

end Sys2Proof
end

section
/-!
PROOF. What the decoder answers (30_encoding.md R53, R58, R60, R61): its clause for an opcode read format by format, row
by row of the opcode map, and for the words that are no command.
-/

-- One proof at a time, for the compiler's sake (see `Elab.async` above).
set_option Elab.async false

namespace Sys2Proof

open Sys2Proof.Machine

/-! ### The formats (R53) -/

/-- A word with the opcode of a command is that command exactly when no reserved bit is set. -/
theorem decode_ok_or_error {w : Word32} (i : Instr) (h : opcodeOf w = i.opcode) :
    decode w = .ok (i.withOperand (operandOf w)) ∧ i.format.accepts (operandOf w) = true ∨
      (∃ e, decode w = .error e) ∧ ¬i.format.accepts (operandOf w) = true := by
  rw [decode_of_opcode i h]
  by_cases hacc : i.format.accepts (operandOf w) = true
  · exact .inl ⟨if_pos hacc, hacc⟩
  · exact .inr ⟨⟨_, if_neg hacc⟩, hacc⟩

/-- A word with the opcode of a command without operand (format `Z`). -/
theorem decode_of_format_Z {w : Word32} (i : Instr) (hi : i.format = .Z) (h : opcodeOf w = i.opcode) :
    decode w = .ok i ∧ w.extractLsb' 0 24 = 0 ∨ (∃ e, decode w = .error e) ∧ w.extractLsb' 0 24 ≠ 0 := by
  have hd := decode_ok_or_error i h
  rw [hi, accepts_Z] at hd
  cases i with
  | rst | rdst | rdacc | fclr | decode => exact hd
  | _ => cases hi

/-- Settles O2: the two halves of `decode_ok_or_error` for each opcode, with the operand's fields read in the word. -/
theorem operandFormats : Obligations.OperandFormats := by
  intro w
  refine ⟨decode_of_format_Z .rst rfl, decode_of_format_Z .rdst rfl, decode_of_format_Z .rdacc rfl,
    decode_of_format_Z .fclr rfl, decode_of_format_Z .decode rfl, fun h => ?_, fun h => ?_, fun h => ?_, fun h => ?_,
    fun h => ?_, fun h => ?_⟩
  · simpa (disch := decide) only [Instr.format, accepts_B, Instr.withOperand, operandOf_extract]
      using decode_ok_or_error (.push 0) h
  · have hd := decode_ok_or_error (.rdi 0) h
    simp (disch := decide) only [Instr.format, accepts_S, Instr.withOperand, operandOf_extract] at hd
    exact hd.imp_left (And.imp_left fun hok => ⟨_, slotOfBits_val _, hok⟩)
  · have hd := decode_ok_or_error (.rds 0) h
    simp (disch := decide) only [Instr.format, accepts_S, Instr.withOperand, operandOf_extract] at hd
    exact hd.imp_left (And.imp_left fun hok => ⟨_, slotOfBits_val _, hok⟩)
  · simpa (disch := decide) only [Instr.format, accepts_W2, Instr.withOperand, operandOf_extract]
      using decode_ok_or_error (.crc2 0 0) h
  · simpa (disch := decide) only [Instr.format, accepts_W3, if_true, Instr.withOperand, operandOf_extract]
      using decode_of_opcode (.vrec 0 0 0) h
  · have hd := decode_ok_or_error (.scl 0 0) h
    simp (disch := decide) only [Instr.format, accepts_SV, Instr.withOperand, operandOf_extract] at hd
    exact hd.imp_left (And.imp_left fun hok => ⟨_, slotOfBits_val _, hok⟩)

/-! ### The rows of the opcode map (R58) -/

/-- A word matches a row exactly when it decodes to a command of the row. -/
theorem row_matches_iff_decode {row : OpRow} (hrow : row ∈ opcodeMap) (w : Word32) :
    w &&& row.mask = row.pattern ↔ ∃ i, decode w = .ok i ∧ i.heading = row.heading := by
  rw [row_matches_iff hrow]
  constructor
  · rintro ⟨hop, hacc⟩
    obtain ⟨i, hi⟩ := exists_instr_of_row hrow
    obtain ⟨-, hiop, hfmt⟩ := heading_eq_iff.1 hi
    refine ⟨i.withOperand (operandOf w), ?_, (withOperand_heading i _).trans hi⟩
    rw [decode_of_opcode i (hop.trans hiop.symm), hfmt, if_pos hacc]
  · rintro ⟨i, hd, hi⟩
    obtain ⟨-, hiop, hfmt⟩ := heading_eq_iff.1 hi
    obtain rfl := encode_of_decode hd
    rw [opcodeOf_encode, operandOf_encode, ← hfmt]
    exact ⟨hiop, accepts_operand i⟩

/-- Settles O3: the rows are those of the commands, and no opcode stands in two of them. -/
theorem decoderFollowsOpcodeMap : Obligations.DecoderFollowsOpcodeMap := by
  refine ⟨fun w row hrow => ?_, fun w row row' hrow hrow' h h' => ?_, fun w => ⟨?_, fun h => ?_⟩⟩
  · simp only [row_matches_iff_decode hrow w, heading_eq_iff]
  · obtain ⟨hop, -⟩ := (row_matches_iff hrow w).1 h
    obtain ⟨hop', -⟩ := (row_matches_iff hrow' w).1 h'
    exact row_eq_of_opcode_eq hrow hrow' (hop.symm.trans hop')
  · rintro ⟨e, he⟩ row hrow h
    obtain ⟨i, hi, -⟩ := (row_matches_iff_decode hrow w).1 h
    cases he.symm.trans hi
  · cases hd : decode w with
    | error e => exact ⟨e, rfl⟩
    | ok i =>
      obtain ⟨row, hrow, hi⟩ := exists_row i
      exact absurd ((row_matches_iff_decode hrow w).2 ⟨i, hd, hi⟩) (h row hrow)

/-! ### Words that are no command (R60, R61) -/

theorem answeredIllegal_of_error {w : Word32} {e : Illegal} (h : decode w = .error e) : AnsweredIllegal w :=
  fun _ _ hp => step_of_illegal hp h

theorem decode_eq_reservedOpcode_iff {w : Word32} :
    decode w = .error (.reservedOpcode (opcodeOf w)) ↔ opcodeOf w ∉ commandOpcodes := by
  refine ⟨fun hd hop => ?_, decode_of_reserved_opcode⟩
  obtain ⟨i, hi⟩ := mem_commandOpcodes_iff.1 hop
  rw [decode_of_opcode i hi.symm] at hd
  split at hd <;> cases hd

/-- The opcodes of R58 are four runs of numbers. -/
def commandRuns : List Nat := List.range' 0x01 2 ++ List.range' 0x40 3 ++ List.range' 0x50 4 ++ List.range' 0x60 2

theorem commandOpcodes_toNat : commandOpcodes.map BitVec.toNat = commandRuns := rfl

theorem mem_commandOpcodes_iff_runs (op : Byte) : op ∈ commandOpcodes ↔ op.toNat ∈ commandRuns := by
  rw [← commandOpcodes_toNat, List.mem_map_of_injective fun _ _ => BitVec.eq_of_toNat_eq]

/-- The ranges of R60 are what the runs leave. -/
theorem reservedRanges_iff (op : Byte) : (op.toNat = 0x00 ∨ 0x03 ≤ op.toNat ∧ op.toNat ≤ 0x3F ∨
    0x43 ≤ op.toNat ∧ op.toNat ≤ 0x4F ∨ 0x54 ≤ op.toNat ∧ op.toNat ≤ 0x5F ∨ 0x62 ≤ op.toNat) ↔
    op ∉ commandOpcodes := by
  simp only [mem_commandOpcodes_iff_runs, commandRuns, List.mem_append, List.mem_range'_1]
  omega

/-- The opcodes of R58, as numbers, are those of the first 256 numbers that name one. -/
theorem commandOpcodes_perm :
    List.Perm ((List.range 256).filter fun n => commandOpcodes.contains (BitVec.ofNat 8 n))
      (commandOpcodes.map BitVec.toNat) := by
  rw [List.perm_ext_iff_of_nodup (List.nodup_range.filter _) (by decide)]
  intro n
  rw [List.mem_filter, List.mem_range, List.contains_iff_mem, List.mem_map]
  constructor
  · rintro ⟨hn, hop⟩
    exact ⟨_, hop, (BitVec.toNat_ofNat n 8).trans (Nat.mod_eq_of_lt hn)⟩
  · rintro ⟨op, hop, rfl⟩
    exact ⟨op.isLt, by rwa [BitVec.ofNat_toNat, BitVec.setWidth_eq]⟩

theorem length_filter_not {l : List Nat} {p : Nat → Bool} {k : Nat} (h : (l.filter p).length = k) :
    (l.filter fun n => !p n).length = l.length - k := by
  have hall := l.length_eq_length_filter_add p
  omega

/-- 245 of the 256 opcode values stand in no row: all but the eleven that do. -/
theorem reservedOpcodes_length :
    ((List.range 256).filter fun n => !(commandOpcodes.contains (BitVec.ofNat 8 n))).length = 245 := by
  rw [length_filter_not commandOpcodes_perm.length_eq, List.length_range]
  rfl

/-- Settles O5: an opcode of no row is named so and refused; the two words have the opcodes 0x00 and 0xFF. -/
theorem reservedOpcodesAreIllegal : Obligations.ReservedOpcodesAreIllegal := by
  refine ⟨fun w => (reservedRanges_iff _).trans decode_eq_reservedOpcode_iff.symm,
    fun w op => answeredIllegal_of_error, reservedOpcodes_length, ?_, ?_⟩
  · exact answeredIllegal_of_error (decode_of_reserved_opcode (by decide))
  · exact answeredIllegal_of_error (decode_of_reserved_opcode (by decide))

theorem decode_eq_reservedOperandBits {w : Word32} {row : OpRow} (hrow : row ∈ opcodeMap)
    (hop : opcodeOf w = row.opcode) (hbits : operandOf w &&& row.format.reserved ≠ 0) :
    decode w = .error (.reservedOperandBits (opcodeOf w) (operandOf w)) := by
  obtain ⟨i, hi⟩ := exists_instr_of_row hrow
  obtain ⟨-, hiop, hfmt⟩ := heading_eq_iff.1 hi
  have hacc : ¬row.format.accepts (operandOf w) = true := fun h => hbits (beq_iff_eq.1 h)
  rw [decode_of_opcode i (hop.trans hiop.symm), hfmt, if_neg hacc]

/-- Settles O6: the refusing half of the opcode's clause, in `DECODE`'s and `RDI`'s for the two words. -/
theorem reservedOperandBitsAreIllegal : Obligations.ReservedOperandBitsAreIllegal := by
  refine ⟨fun w row hrow hop hbits => ?_, ?_, ?_⟩
  · have hd := decode_eq_reservedOperandBits hrow hop hbits
    exact ⟨hd, answeredIllegal_of_error hd⟩
  · exact answeredIllegal_of_error ((decode_of_opcode .decode (by decide)).trans (if_neg (by decide)))
  · exact answeredIllegal_of_error ((decode_of_opcode (.rdi 0) (by decide)).trans (if_neg (by decide)))

/-- Settles O1: each word is the encoding of its command. -/
theorem specWordsDecode : Obligations.SpecWordsDecode :=
  ⟨decode_encode .rst, decode_encode .rdst, decode_encode (.crc2 0xBE 0xEF), decode_encode (.vrec 0xBE 0xEF 0x92),
    decode_encode .rdacc, decode_encode .fclr, decode_encode (.push 0x5A), decode_encode .decode,
    decode_encode (.rdi 5), decode_encode (.scl 5 0xFBE6), decode_encode (.rds 4)⟩

end Sys2Proof
end

section
/-!
PROOF. The response word (30_encoding.md R56) and the one response of every command word (R55, R59, R64), read off
`CarriedOut`.
-/

-- One proof at a time, for the compiler's sake (see `Elab.async` above).
set_option Elab.async false

namespace Sys2Proof.Machine

/-! ### The layout of the response word (R56) -/

/-- The four fields of a response word, from bit 31 down. -/
theorem respondWord_fields (st : BitVec 4) (p : Bool) (payload : Word24) :
    (respondWord st p payload).extractLsb' 28 4 = st ∧ (respondWord st p payload).extractLsb' 25 3 = 0 ∧
      (respondWord st p payload).getLsbD 24 = p ∧ (respondWord st p payload).extractLsb' 0 24 = payload := by
  unfold respondWord
  refine ⟨?_, ?_, ?_, BitVec.extractLsb'_append_eq_right⟩
  · rw [BitVec.extractLsb'_append_eq_of_le (by decide), BitVec.extractLsb'_append_eq_of_le (by decide)]
    exact BitVec.extractLsb'_append_eq_left
  · rw [BitVec.extractLsb'_append_eq_of_le (by decide), BitVec.extractLsb'_append_eq_of_le (by decide)]
    exact BitVec.extractLsb'_append_eq_right
  · rw [BitVec.getLsbD_append, BitVec.getLsbD_append]
    exact BitVec.getLsbD_ofBool p 0

theorem refusal_shows_nothing {r : Response} (h : r.statusCode ≠ 0) : r.present = false ∧ r.payload = 0 := by
  cases r with
  | ok a => exact absurd rfl h
  | errIllegal | errFault | faultPv => exact ⟨rfl, rfl⟩

/-- Settles O7: the fields of the word are those it was packed from. -/
theorem responseWordLayout : Obligations.ResponseWordLayout := by
  intro r
  obtain ⟨hst, hzero, hp, hpayload⟩ := respondWord_fields r.statusCode r.present r.payload
  exact ⟨hst, hzero, hp, hpayload, refusal_shows_nothing⟩

/-! ### The response of each command (R59) -/

/-- The payload of a valid record: below the checksum stand the two data bytes (R59, R75). -/
theorem record_payload (crc b0 b1 : Byte) : Answer.payload (.record crc (some (be16s b0 b1))) = crc ++ b0 ++ b1 := by
  have assoc : crc ++ b0 ++ b1 = crc ++ (b0 ++ b1) := by rw [BitVec.append_assoc, BitVec.cast_eq]
  exact assoc.symm

/-- The response word of `VREC` (R59). -/
theorem record_word (b0 b1 c : Byte) : (Response.ok (.record (crc8Two b0 b1) (decodeRecord b0 b1 c))).word =
    if crc8Two b0 b1 = c then respondWord 0 true (crc8Two b0 b1 ++ b0 ++ b1)
      else respondWord 0 false (crc8Two b0 b1 ++ (0 : BitVec 16)) := by
  unfold decodeRecord
  split
  · exact congrArg (respondWord 0 true) (record_payload _ b0 b1)
  · rfl

/-- Up to 25, the five bits of `LEN` are `LEN`. -/
theorem length_payload {s : State} (h : s.len ≤ 25) : Answer.payload (.length s.lenBits) = BitVec.ofNat 24 s.len := by
  apply BitVec.eq_of_toNat_eq
  simp only [Answer.payload, State.lenBits, BitVec.toNat_setWidth, BitVec.toNat_ofNat]
  rw [Nat.mod_eq_of_lt (a := s.len) (b := 2 ^ 5) (by omega)]

/-- Settles O8: each command's answer is `CarriedOut`'s; `PUSH` names the new `LEN` and `DECODE` the new mask. -/
theorem okResponseOfEachCommand : Obligations.OkResponseOfEachCommand := by
  intro s hpv
  have responds {i : Instr} {t : State} {a : Answer} {w : Word32} (h : CarriedOut i s t)
      (ht : t.responses = .ok a :: s.responses) (hw : (Response.ok a).word = w) : RespondsWith i s w :=
    ⟨t, .ok a, h.exec_eq (.inl hpv), ht, hw⟩
  refine ⟨responds rfl rfl rfl, responds rfl rfl rfl, fun b0 b1 => responds rfl rfl rfl,
    fun b0 b1 c => responds rfl rfl (record_word b0 b1 c), responds rfl rfl rfl, responds rfl rfl rfl, fun b => ?_,
    fun hlen hcells => ?_, fun slot => responds rfl rfl ?_, fun slot v => responds rfl rfl rfl,
    fun slot => responds rfl rfl ?_⟩
  · have hlen : (s.pushed b).len ≤ 25 := Nat.min_le_right _ _
    refine ⟨(s.pushed b).len, ?_, hlen, ⟨_, execPush_of_operating b hpv, rfl⟩, responds rfl rfl ?_⟩
    · change 1 ≤ min (s.len + 1) 25
      omega
    · exact congrArg (respondWord 0 false) (length_payload hlen)
  · obtain ⟨f, hf⟩ := exists_holdsFrame hcells
    exact ⟨_, execDecode_of_holdsFrame hpv hlen hf, responds (.inr ⟨hlen, f, hf, rfl⟩) rfl rfl⟩
  · cases s.res[slot] <;> rfl
  · cases s.res[slot] <;> rfl

/-! ### One response for each command word (R55, R64) -/

/-- What a command that is carried out answers, and that it issues nothing on the host's side. -/
theorem CarriedOut.response {i : Instr} {s t : State} (h : CarriedOut i s t) : t.pending = s.pending ∧
    ∃ r, t.responses = r :: s.responses ∧ (r.statusCode = 0 ∨ i = .decode ∧ r.statusCode = 3) := by
  cases i with
  | decode =>
    rcases h with ⟨-, rfl⟩ | ⟨-, f, -, rfl⟩
    · exact ⟨rfl, _, rfl, .inr ⟨rfl, rfl⟩⟩
    · exact ⟨rfl, _, rfl, .inl rfl⟩
  | _ => obtain rfl := h; exact ⟨rfl, _, rfl, .inl rfl⟩

/-- Settles O11: the two checks in R64's order, then the command. -/
theorem executionOfAnyWord : Obligations.ExecutionOfAnyWord := by
  intro s w rest hp
  refine ⟨fun e hw => step_of_illegal hp hw, fun i hw hpv hrst hrdst => ?_, fun i hw hadm => ?_⟩
  · exact (step_of_command hp hw).trans (exec_of_faulted hpv hrst hrdst)
  · refine ⟨step_of_command hp hw, fun t ht => ?_⟩
    have hadm' : Admitted i { s with pending := rest } := hadm
    have ht' : CarriedOut i { s with pending := rest } t :=
      (exec_next_iff_of_admitted hadm').1 ((step_of_command hp hw).symm.trans ht)
    exact ht'.response.2

theorem exec_keeps_pending {i : Instr} {s t : State} (h : exec i s = .next t) : t.pending = s.pending := by
  rcases exec_next_cases h with ⟨-, -, -, rfl⟩ | ⟨-, h⟩
  · rfl
  · exact h.response.1

/-- Under the invariants every command gives a next state: no cell below `LEN` is empty (I5, R29). -/
theorem State.Inv.exec_next {s : State} (hs : s.Inv) (i : Instr) : ∃ t, exec i s = .next t := by
  refine (exec_next_or_stops i s).resolve_right ?_
  rintro ⟨-, -, hlen, a, ha, hempty, -⟩
  have hcell : (s.fb.read a).isSome := hs.pushed a (by omega)
  simp [hempty] at hcell

/-- Settles O15: an illegal word and a command each add the one response; the idle step and the reset pin add none. -/
theorem oneResponsePerCommandWord : Obligations.OneResponsePerCommandWord := by
  refine ⟨fun s w rest hs hp => ?_, fun s t ht hnone => ?_⟩
  · cases hw : decode w with
    | error e => exact ⟨_, _, step_of_illegal hp hw, rfl, rfl⟩
    | ok i =>
      have taken : State.Inv { s with pending := rest } := hs.congr _ _ _ _
      obtain ⟨t, ht⟩ := taken.exec_next i
      obtain ⟨r, hr⟩ := exec_next_one_response ht
      exact ⟨t, r, (step_of_command hp hw).trans ht, hr, exec_keeps_pending ht⟩
  · rcases hp : s.pending with _ | ⟨x, rest⟩
    · obtain rfl : s = t := by simpa [step_of_nil hp] using ht
      rfl
    · cases x with
      | command w => exact absurd hp (hnone w rest)
      | resetPin =>
        obtain rfl : ({ s with pending := rest } : State).resetBlock = t := by simpa [step_of_resetPin hp] using ht
        rfl

end Sys2Proof.Machine
end

section
/-!
PROOF. The checksum as a linear map (40_checksum.md R66 to R69). A function that respects exclusive or is injective when
it takes only 0 to 0; so is the shift, and with it `crc8_absorb` and the checksum in each byte.
-/

-- From here on proofs run in parallel again: on the threads that stand idle by now they cost the compile of the whole
-- text no further memory, which one after the other on the main thread they would.

namespace Sys2Proof.Machine

/-! ### Linearity over exclusive or -/

/-- The function respects exclusive or. -/
def XorLinear {n m : Nat} (f : BitVec n → BitVec m) : Prop := ∀ x y, f (x ^^^ y) = f x ^^^ f y

theorem XorLinear.map_zero {n m : Nat} {f : BitVec n → BitVec m} (hf : XorLinear f) : f 0#n = 0#m := by
  have h := hf 0#n 0#n
  rwa [BitVec.xor_self, BitVec.xor_self] at h

theorem XorLinear.injective {n m : Nat} {f : BitVec n → BitVec m} (hf : XorLinear f)
    (hzero : ∀ x, f x = 0#m → x = 0#n) : Function.Injective f := by
  intro x y h
  exact BitVec.xor_eq_zero_iff.1 (hzero _ ((hf x y).trans (BitVec.xor_eq_zero_iff.2 h)))

theorem XorLinear.iterate {n : Nat} {f : BitVec n → BitVec n} (hf : XorLinear f) (k : Nat) : XorLinear f^[k] := by
  intro x y
  induction k generalizing x y with
  | zero => rfl
  | succ k ih => simp only [Function.iterate_succ_apply, hf x y, ih]

/-! ### `crc8_shift` (R66) -/

theorem crc8Shift_eq (a : Byte) : crc8Shift a = a <<< 1 ^^^ if a.getLsbD 7 then 0x31#8 else 0#8 := by
  unfold crc8Shift
  cases a.getLsbD 7 with
  | false => exact BitVec.xor_zero.symm
  | true => rfl

/-- The bits of R66: each is the next lower one of `a`, and the outgoing bit is added where `POLY` has a 1. -/
theorem getLsbD_crc8Shift (a : Byte) {k : Nat} (hk : k < 8) : (crc8Shift a).getLsbD k =
    ((decide (1 ≤ k) && a.getLsbD (k - 1)) ^^ (a.getLsbD 7 && (0x31#8).getLsbD k)) := by
  rw [crc8Shift_eq, BitVec.getLsbD_xor, BitVec.getLsbD_shiftLeft]
  cases a.getLsbD 7 <;> simp [hk, Nat.one_le_iff_ne_zero]

/-- Settles O18: the two branches of the shift, and its bits one by one. -/
theorem crcShiftBits : Obligations.CrcShiftBits := by
  intro a
  refine ⟨fun h => ?_, fun h => ?_, ?_⟩
  · rw [crc8Shift_eq, if_pos h]
    rfl
  · rw [crc8Shift_eq, h]
    exact BitVec.xor_zero
  · simp (disch := decide) only [getLsbD_crc8Shift]
    simp

theorem crc8Shift_linear : XorLinear crc8Shift := by
  intro x y
  have outgoing : (if (x ^^^ y).getLsbD 7 then 0x31#8 else 0#8) =
      (if x.getLsbD 7 then 0x31#8 else 0#8) ^^^ if y.getLsbD 7 then 0x31#8 else 0#8 := by
    rw [BitVec.getLsbD_xor]
    cases x.getLsbD 7 <;> cases y.getLsbD 7 <;> rfl
  rw [crc8Shift_eq, crc8Shift_eq, crc8Shift_eq, outgoing, BitVec.shiftLeft_xor_distrib]
  ac_rfl

/-- The outgoing bit stands in bit 0 of the result, so no bit is lost. -/
theorem crc8Shift_injective : Function.Injective crc8Shift := by
  refine crc8Shift_linear.injective fun a h => ?_
  have bits {k : Nat} (hk : k < 8) :
      ((decide (1 ≤ k) && a.getLsbD (k - 1)) ^^ (a.getLsbD 7 && (0x31#8).getLsbD k)) = false := by
    rw [← getLsbD_crc8Shift a hk, h, BitVec.getLsbD_zero]
  have outgoing : a.getLsbD 7 = false := by simpa using bits (k := 0) (by decide)
  apply BitVec.eq_of_getLsbD_eq
  intro k hk
  rw [BitVec.getLsbD_zero]
  by_cases h7 : k = 7
  · rw [h7, outgoing]
  · simpa [outgoing, -BitVec.getLsbD_eq_getElem] using bits (k := k + 1) (by omega)

/-! ### `crc8_absorb` and `crc8_2` (R67, R68) -/

theorem crc8Shifts_eq_iterate (n : Nat) (a : Byte) : crc8Shifts n a = crc8Shift^[n] a := by
  induction n generalizing a with
  | zero => rfl
  | succ n ih => exact ih (crc8Shift a)

theorem crc8Absorb_eq (a b : Byte) : crc8Absorb a b = crc8Shift^[8] (a ^^^ b) := crc8Shifts_eq_iterate 8 _

/-- Settles O19: eight steps are the eighth iterate, and `crc8_2` is two absorptions from `INIT`. -/
theorem crcOfTwoBytes : Obligations.CrcOfTwoBytes := ⟨crc8Absorb_eq, fun _ _ => rfl⟩

theorem crc8Absorb_xor (a a' b b' : Byte) :
    crc8Absorb (a ^^^ a') (b ^^^ b') = crc8Absorb a b ^^^ crc8Absorb a' b' := by
  have regroup : a ^^^ a' ^^^ (b ^^^ b') = a ^^^ b ^^^ (a' ^^^ b') := by ac_rfl
  simp only [crc8Absorb_eq, regroup, crc8Shift_linear.iterate 8 (a ^^^ b)]

theorem crc8Absorb_zero : crc8Absorb 0#8 0#8 = 0#8 :=
  (crc8Absorb_eq _ _).trans (crc8Shift_linear.iterate 8).map_zero

/-- Settles O20: the shift is linear, and with it its eighth iterate. -/
theorem crcIsLinear : Obligations.CrcIsLinear := ⟨crc8Shift_linear, crc8Absorb_xor, crc8Absorb_zero⟩

theorem crc8Absorb_injective_right (a : Byte) : Function.Injective (crc8Absorb a) := by
  intro b b' h
  rw [crc8Absorb_eq, crc8Absorb_eq] at h
  exact (BitVec.xor_right_inj a).1 (crc8Shift_injective.iterate 8 h)

theorem crc8Absorb_injective_left (b : Byte) : Function.Injective fun a => crc8Absorb a b := by
  intro a a' h
  simp only [crc8Absorb_eq] at h
  exact (BitVec.xor_left_inj b).1 (crc8Shift_injective.iterate 8 h)

/-- Only its own value absorbed brings the accumulator to zero. -/
theorem crc8Absorb_eq_zero_iff {a c : Byte} : crc8Absorb a c = 0#8 ↔ c = a := by
  have hself : crc8Absorb a a = 0#8 := by rw [crc8Absorb_eq, BitVec.xor_self, (crc8Shift_linear.iterate 8).map_zero]
  rw [← hself]
  exact (crc8Absorb_injective_right a).eq_iff

/-! ### Records (R76) -/

theorem decodeRecord_isSome_iff {b0 b1 c : Byte} : (decodeRecord b0 b1 c).isSome = true ↔ c = crc8Two b0 b1 := by
  unfold decodeRecord
  split
  · rename_i h
    simp [h]
  · rename_i h
    simp [Ne.symm h]

theorem decodeRecord_eq_none {b0 b1 c : Byte} (h : crc8Two b0 b1 ≠ c) : decodeRecord b0 b1 c = none := if_neg h

/-- Settles O21: the third byte absorbed is compared with the checksum of the first two. -/
theorem crcZeroResidue : Obligations.CrcZeroResidue := fun _ _ _ =>
  ⟨crc8Absorb_eq_zero_iff, crc8Absorb_eq_zero_iff.trans decodeRecord_isSome_iff.symm⟩

/-! ### The checksum in each byte (R69) -/

theorem crc8Two_injective_right (b0 : Byte) : Function.Injective fun b1 => crc8Two b0 b1 :=
  crc8Absorb_injective_right _

theorem crc8Two_injective_left (b1 : Byte) : Function.Injective fun b0 => crc8Two b0 b1 :=
  (crc8Absorb_injective_left b1).comp (crc8Absorb_injective_right _)

theorem crc8Two_bijective_right (b0 : Byte) : Function.Bijective fun b1 => crc8Two b0 b1 :=
  Finite.injective_iff_bijective.1 (crc8Two_injective_right b0)

/-- For each first byte there is one second byte that gives the checksum `c`. -/
theorem card_crc8Two_eq (c : Byte) : Nat.card { p : Byte × Byte // crc8Two p.1 p.2 = c } = 256 := by
  have first : Function.Bijective fun p : { p : Byte × Byte // crc8Two p.1 p.2 = c } => p.1.1 := by
    refine ⟨?_, fun b0 => ?_⟩
    · rintro ⟨⟨b0, b1⟩, h⟩ ⟨⟨_, b1'⟩, h'⟩ rfl
      obtain rfl : b1 = b1' := crc8Two_injective_right b0 (h.trans h'.symm)
      rfl
    · obtain ⟨b1, h⟩ := (crc8Two_bijective_right b0).surjective c
      exact ⟨⟨(b0, b1), h⟩, rfl⟩
  exact (Nat.card_eq_of_bijective _ first).trans (card_bitVec 8)

/-- Settles O22: injective on the finite set of bytes is bijective, and the second byte is determined by the first. -/
theorem crcIsBijectiveInEachByte : Obligations.CrcIsBijectiveInEachByte := by
  refine ⟨crc8Two_bijective_right, fun b1 => Finite.injective_iff_bijective.1 (crc8Two_injective_left b1),
    fun b0 b1 b' h => ?_, fun b0 b1 b' h => ?_, card_crc8Two_eq 0, ?_⟩
  · exact decodeRecord_eq_none ((crc8Two_injective_left b1).ne h)
  · exact decodeRecord_eq_none ((crc8Two_injective_right b0).ne h)
  · decide +kernel

end Sys2Proof.Machine
end

section
/-!
PROOF. Errors of one to three bits (40_checksum.md R69). By linearity a record with flipped bits is valid exactly when
the checksum's response to the error pattern alone, its syndrome, is zero. One flipped bit at place `k` has the syndrome
`crc8_shift` applied `k` times to 1. Two of them differ, since no fewer than 24 shifts lead from 1 back to 1; an odd
number of them does not cancel, since a shift keeps the parity of the accumulator (`POLY` has three bits, and the
outgoing bit is the fourth).
-/

namespace Sys2Proof.Machine

/-! ### Exclusive or of a list -/

/-- The exclusive or of a list of words. -/
def xorSum {n : Nat} (l : List (BitVec n)) : BitVec n := l.foldr (· ^^^ ·) 0#n

theorem xorSum_cons {n : Nat} (x : BitVec n) (l : List (BitVec n)) : xorSum (x :: l) = x ^^^ xorSum l := rfl

theorem XorLinear.map_xorSum {n m : Nat} {f : BitVec n → BitVec m} (hf : XorLinear f) (l : List (BitVec n)) :
    f (xorSum l) = xorSum (l.map f) := by
  induction l with
  | nil => exact hf.map_zero
  | cons x l ih => rw [List.map_cons, xorSum_cons, xorSum_cons, hf, ih]

/-- The exclusive or of powers of two at distinct places has its bits there. -/
theorem getLsbD_xorSum_twoPow {n : Nat} {l : List Nat} (hl : l.Nodup) {k : Nat} (hk : k < n) :
    (xorSum (l.map (BitVec.twoPow n))).getLsbD k = decide (k ∈ l) := by
  induction l with
  | nil => exact BitVec.getLsbD_zero
  | cons j l ih =>
    obtain ⟨hj, hl⟩ := List.nodup_cons.1 hl
    rw [List.map_cons, xorSum_cons, BitVec.getLsbD_xor, ih hl, BitVec.getLsbD_twoPow]
    by_cases hjk : j = k
    · subst hjk
      simp [hj, hk]
    · simp [hjk, Ne.symm hjk]

/-- The places of a word's bits, lowest first. -/
def onesOf {n : Nat} (e : BitVec n) : List Nat := (List.range n).filter fun k => e.getLsbD k

theorem onesOf_sorted {n : Nat} (e : BitVec n) : (onesOf e).Pairwise (· < ·) := List.pairwise_lt_range.filter _

theorem lt_of_mem_onesOf {n : Nat} {e : BitVec n} {k : Nat} (h : k ∈ onesOf e) : k < n :=
  List.mem_range.1 (List.mem_of_mem_filter h)

theorem length_onesOf {n : Nat} (e : BitVec n) : (onesOf e).length = (List.range n).countP fun k => e.getLsbD k :=
  List.countP_eq_length_filter.symm

theorem xorSum_onesOf {n : Nat} (e : BitVec n) : xorSum ((onesOf e).map (BitVec.twoPow n)) = e := by
  apply BitVec.eq_of_getLsbD_eq
  intro k hk
  rw [getLsbD_xorSum_twoPow (onesOf_sorted e).nodup hk]
  simp [onesOf, hk]

/-! ### Parity -/

/-- The number of bits of a byte is odd. -/
def oddOnes (a : Byte) : Bool :=
  a.getLsbD 7 ^^ a.getLsbD 6 ^^ a.getLsbD 5 ^^ a.getLsbD 4 ^^ a.getLsbD 3 ^^ a.getLsbD 2 ^^ a.getLsbD 1 ^^ a.getLsbD 0

theorem oddOnes_xor (a b : Byte) : oddOnes (a ^^^ b) = (oddOnes a ^^ oddOnes b) := by
  have : Std.Commutative Bool.xor := ⟨Bool.xor_comm⟩
  simp only [oddOnes, BitVec.getLsbD_xor]
  ac_rfl

theorem oddOnes_crc8Shift (a : Byte) : oddOnes (crc8Shift a) = oddOnes a := by
  obtain ⟨-, -, h7, h6, h5, h4, h3, h2, h1, h0⟩ := crcShiftBits a
  simp only [oddOnes, h7, h6, h5, h4, h3, h2, h1, h0]
  cases a.getLsbD 7 <;> simp

theorem oddOnes_iterate (a : Byte) (k : Nat) : oddOnes (crc8Shift^[k] a) = oddOnes a := by
  induction k generalizing a with
  | zero => rfl
  | succ k ih => rw [Function.iterate_succ_apply, ih, oddOnes_crc8Shift]

theorem oddOnes_xorSum {l : List Byte} (h : ∀ a ∈ l, oddOnes a = true) :
    oddOnes (xorSum l) = decide (l.length % 2 = 1) := by
  induction l with
  | nil => rfl
  | cons a l ih =>
    obtain ⟨ha, hl⟩ := List.forall_mem_cons.1 h
    rw [xorSum_cons, oddOnes_xor, ha, ih hl, List.length_cons, Bool.true_xor, ← decide_not]
    exact decide_eq_decide.2 (by omega)

/-! ### The syndrome -/

/-- What the error pattern `e` alone does to a record: its three bytes absorbed from 0, the third without a shift. -/
def syndrome (e : Word24) : Byte :=
  crc8Absorb (crc8Absorb 0#8 (e.extractLsb' 16 8)) (e.extractLsb' 8 8) ^^^ e.extractLsb' 0 8

theorem crc8Two_xor (b0 b1 d0 d1 : Byte) :
    crc8Two (b0 ^^^ d0) (b1 ^^^ d1) = crc8Two b0 b1 ^^^ crc8Absorb (crc8Absorb 0#8 d0) d1 :=
  calc crc8Two (b0 ^^^ d0) (b1 ^^^ d1)
      = crc8Absorb (crc8Absorb (Config.init ^^^ 0#8) (b0 ^^^ d0)) (b1 ^^^ d1) := by rw [BitVec.xor_zero]; rfl
    _ = _ := by rw [crc8Absorb_xor, crc8Absorb_xor]; rfl

/-- An error of syndrome other than zero makes a valid record invalid. -/
theorem decodeRecord_of_syndrome_ne_zero (b0 b1 : Byte) {e : Word24} (h : syndrome e ≠ 0#8) :
    decodeRecord (b0 ^^^ e.extractLsb' 16 8) (b1 ^^^ e.extractLsb' 8 8) (crc8Two b0 b1 ^^^ e.extractLsb' 0 8) =
      none := by
  apply decodeRecord_eq_none
  rw [crc8Two_xor]
  exact fun heq => h (BitVec.xor_eq_zero_iff.2 ((BitVec.xor_right_inj _).1 heq))

theorem syndrome_linear : XorLinear syndrome := by
  intro x y
  have absorb (d0 d0' d1 d1' : Byte) : crc8Absorb (crc8Absorb 0#8 (d0 ^^^ d0')) (d1 ^^^ d1') =
      crc8Absorb (crc8Absorb 0#8 d0) d1 ^^^ crc8Absorb (crc8Absorb 0#8 d0') d1' := by
    rw [← crc8Absorb_xor, ← crc8Absorb_xor, BitVec.xor_zero]
  simp only [syndrome, BitVec.extractLsb'_xor, absorb]
  ac_rfl

/-- The syndrome of one bit: place `k` is `k` shifts away from place 0. -/
theorem syndrome_twoPow : ∀ k < 24, syndrome (BitVec.twoPow 24 k) = crc8Shift^[k] 1#8 := by decide +kernel

/-- The syndrome is the exclusive or of those of the bits. -/
theorem syndrome_eq_xorSum (e : Word24) : syndrome e = xorSum ((onesOf e).map fun k => crc8Shift^[k] 1#8) := by
  conv_lhs => rw [← xorSum_onesOf e, syndrome_linear.map_xorSum, List.map_map]
  exact congrArg xorSum (List.map_congr_left fun k hk => syndrome_twoPow k (lt_of_mem_onesOf hk))

/-- An error in an odd number of bits has a syndrome of odd parity. -/
theorem syndrome_ne_zero_of_odd {e : Word24} (h : (onesOf e).length % 2 = 1) : syndrome e ≠ 0#8 := by
  intro hzero
  have hodd : ∀ a ∈ (onesOf e).map fun k => crc8Shift^[k] 1#8, oddOnes a = true := by
    simp only [List.forall_mem_map, oddOnes_iterate]
    exact fun _ _ => rfl
  have hparity := oddOnes_xorSum hodd
  rw [← syndrome_eq_xorSum, hzero, List.length_map, h] at hparity
  exact absurd hparity (by decide)

theorem iterate_crc8Shift_ne_one : ∀ d < 24, d ≠ 0 → crc8Shift^[d] 1#8 ≠ 1#8 := by decide +kernel

/-- Two places below 24 have different syndromes: their distance would lead from 1 back to 1. -/
theorem iterate_crc8Shift_ne {i j : Nat} (hij : i < j) (hj : j < 24) : crc8Shift^[i] 1#8 ≠ crc8Shift^[j] 1#8 := by
  intro h
  rw [← Nat.add_sub_cancel' hij.le, Function.iterate_add_apply] at h
  exact iterate_crc8Shift_ne_one (j - i) (by omega) (by omega) (crc8Shift_injective.iterate i h).symm

theorem syndrome_ne_zero_of_two {e : Word24} (h : (onesOf e).length = 2) : syndrome e ≠ 0#8 := by
  obtain ⟨i, j, hones⟩ := List.length_eq_two.1 h
  have hij : i < j := by simpa [hones] using onesOf_sorted e
  have hj : j < 24 := lt_of_mem_onesOf (e := e) (by simp [hones])
  rw [syndrome_eq_xorSum, hones]
  change crc8Shift^[i] 1#8 ^^^ (crc8Shift^[j] 1#8 ^^^ 0#8) ≠ 0#8
  rw [BitVec.xor_zero, Ne, BitVec.xor_eq_zero_iff]
  exact iterate_crc8Shift_ne hij hj

/-- Settles O23: one or three flipped bits have odd parity, and two have different syndromes. -/
theorem crcDetectsThreeBitErrors : Obligations.CrcDetectsThreeBitErrors := by
  intro b0 b1 e hmin hmax
  apply decodeRecord_of_syndrome_ne_zero
  rw [← length_onesOf] at hmin hmax
  by_cases h : (onesOf e).length = 2
  · exact syndrome_ne_zero_of_two h
  · exact syndrome_ne_zero_of_odd (by omega)

end Sys2Proof.Machine
end

section
/-!
PROOF. The commands of the checksum family (40_checksum.md R70 to R72): their words from their bytes, their effects read
off `CarriedOut`, and their refusals.
-/

namespace Sys2Proof.Machine

/-- A word of four bytes, as the spec writes the words of R70 and R71. -/
theorem fourBytes_eq_or (op a b c : Byte) : (op ++ (a ++ b ++ c : Word24) : Word32) =
    op.setWidth 32 <<< 24 ||| a.setWidth 32 <<< 16 ||| b.setWidth 32 <<< 8 ||| c.setWidth 32 := by
  have fits (x : Byte) : (x.setWidth 32).toNat = x.toNat := BitVec.toNat_setWidth_of_le (by decide)
  have shifted (x : Byte) {k : Nat} (hk : 8 + k ≤ 32) : (x.setWidth 32 <<< k).toNat = x.toNat <<< k := by
    rw [BitVec.toNat_shiftLeft, fits]
    exact Nat.mod_eq_of_lt ((Nat.shiftLeft_lt x.isLt).trans_le (Nat.pow_le_pow_right (by decide) hk))
  apply BitVec.eq_of_toNat_eq
  rw [BitVec.toNat_append, BitVec.toNat_append, BitVec.toNat_append, BitVec.toNat_or, BitVec.toNat_or, BitVec.toNat_or,
    shifted op (by decide), shifted a (by decide), shifted b (by decide), fits]
  simp only [Nat.shiftLeft_or_distrib, ← Nat.shiftLeft_add, Nat.reduceAdd, Nat.or_assoc]

/-- A word with a command's opcode and a reserved bit set is refused in every state (R61). -/
theorem answeredIllegal_of_not_accepts {w : Word32} (i : Instr) (h : opcodeOf w = i.opcode)
    (hbits : ¬i.format.accepts (operandOf w) = true) : AnsweredIllegal w :=
  answeredIllegal_of_error ((decode_of_opcode i h).trans (if_neg hbits))

theorem refusedWhileFaulted_of_not_system {i : Instr} (hrst : i ≠ .rst) (hrdst : i ≠ .rdst) : RefusedWhileFaulted i :=
  fun _ hpv => exec_of_faulted hpv hrst hrdst

/-- Settles O24: the word by its bytes, the effect from `CarriedOut`, and the values by evaluation. -/
theorem crc2ComputesTheChecksum : Obligations.Crc2ComputesTheChecksum := by
  refine ⟨fun b0 b1 => ?_, fun s b0 b1 hpv => ?_, fun b0 b1 => refusedWhileFaulted_of_not_system nofun nofun,
    fun w hop hbits => answeredIllegal_of_not_accepts (.crc2 0 0) hop fun hacc => ?_, ?_⟩
  · have hzero : (0#8 : Byte).setWidth 32 <<< 16 = 0#32 := rfl
    exact (fourBytes_eq_or 0x40#8 0#8 b0 b1).trans (by rw [hzero, BitVec.or_zero]; rfl)
  · exact CarriedOut.exec_eq (i := .crc2 b0 b1) rfl (.inl hpv)
  · exact hbits ((operandOf_extract w (by decide)).symm.trans (accepts_W2.1 hacc))
  · decide +kernel

/-- Settles O25: no operand bit is reserved in format `W3`, and the answer's value is the decoded record. -/
theorem vrecValidatesOneRecord : Obligations.VrecValidatesOneRecord := by
  have valid : crc8Two 0xBE 0xEF = 0x92 := by decide +kernel
  refine ⟨fourBytes_eq_or 0x41, fun s b0 b1 c hpv => ?_, fun b0 b1 c => refusedWhileFaulted_of_not_system nofun nofun,
    fun w hop => ?_, by decide +kernel, by decide +kernel, fun s hpv => ?_⟩
  · exact CarriedOut.exec_eq (i := .vrec b0 b1 c) rfl (.inl hpv)
  · exact ⟨_, _, _, (decode_of_opcode (.vrec 0 0 0) hop).trans (if_pos (accepts_W3 _))⟩
  · obtain ⟨-, -, -, hvrec, -⟩ := okResponseOfEachCommand s hpv
    have hok := hvrec 0xBE 0xEF 0x92
    have hbad := hvrec 0xBE 0xEF 0x93
    rw [valid] at hok hbad
    exact ⟨hok, hbad⟩

theorem rdacc_respondsWith {s : State} (hpv : s.pv = false) :
    RespondsWith .rdacc s (respondWord 0 false (s.acc.setWidth 24)) := by
  obtain ⟨-, -, -, -, hrdacc, -⟩ := okResponseOfEachCommand s hpv
  exact hrdacc

/-- Settles O26: the answer is `ACC` as the state before left it, `INIT` at reset and slot 7's checksum after a `DECODE`
(`decode_acc`); a `DECODE` at another `LEN` than 24 is no writer of `ACC`. -/
theorem rdaccReadsTheAccumulator : Obligations.RdaccReadsTheAccumulator := by
  refine ⟨rfl, fun s hpv => ?_, refusedWhileFaulted_of_not_system nofun nofun,
    fun w hop hbits => answeredIllegal_of_not_accepts .rdacc hop (mt accepts_Z.1 hbits), rdacc_respondsWith rfl,
    fun s t f hpv hlen hf h => ?_, fun s t hpv hlen h => ?_⟩
  · exact CarriedOut.exec_eq (i := .rdacc) rfl (.inl hpv)
  · obtain ⟨h0, h1, -⟩ := hf 7
    have hpv' : t.pv = false := by simp [← Bool.not_eq_true, pv_after h, hpv, hlen]
    rw [← decode_acc hpv hlen h0 h1 h]
    exact rdacc_respondsWith hpv'
  · by_contra hacc
    rcases acc_writers h hacc with hrst | ⟨-, ⟨_, _, hcrc⟩ | ⟨_, _, _, hvrec⟩ | ⟨-, hdecoded⟩⟩
    · cases hrst
    · cases hcrc
    · cases hvrec
    · exact hlen hdecoded

end Sys2Proof.Machine
end

section
/-!
PROOF. The scaler family (42_scaler.md R87 to R93): the low 24 bits of the product are the whole product, so every law
of the scaler is a law of integer multiplication; then `SCL` and `RDS`, their effects read off `CarriedOut`.
-/

-- One proof at a time, for the compiler's sake (see `Elab.async` above).
set_option Elab.async false

namespace Sys2Proof.Machine

/-! ### The scaled value is the product (R87, R91) -/

theorem mul_range (slot : Slot) : 0 < Config.mul slot ∧ Config.mul slot ≤ 100 := by
  revert slot
  decide

theorem mul_mul_div (slot : Slot) : Config.mul slot * Config.div slot = 1000 := by
  revert slot
  decide

/-- The product with a multiplier lies between the products of the two ends of the raw range. -/
theorem product_range (slot : Slot) (v : Raw) :
    -32768 * (Config.mul slot : Int) ≤ v.toInt * (Config.mul slot : Int) ∧
    v.toInt * (Config.mul slot : Int) ≤ 32767 * (Config.mul slot : Int) := by
  have hmul : (0 : Int) ≤ Config.mul slot := Int.natCast_nonneg _
  exact ⟨Int.mul_le_mul_of_nonneg_right v.le_toInt hmul,
    Int.mul_le_mul_of_nonneg_right (Int.le_of_lt_add_one v.toInt_lt) hmul⟩

theorem abs_product_le (slot : Slot) (v : Raw) : |v.toInt * (Config.mul slot : Int)| ≤ 3276800 := by
  obtain ⟨-, hmul⟩ := mul_range slot
  obtain ⟨hlow, hhigh⟩ := product_range slot v
  exact abs_le.2 ⟨by omega, by omega⟩

/-- R87: nothing of the product is lost above bit 23, for it fits in 24 bits. -/
theorem scale_toInt (slot : Slot) (v : Raw) : (scale slot v).toInt = v.toInt * (Config.mul slot : Int) := by
  obtain ⟨hlow, hhigh⟩ := abs_le.1 (abs_product_le slot v)
  calc (scale slot v).toInt = (v.toInt * (Config.mul slot : Int)).bmod (2 ^ 24) := by
        rw [scale, BitVec.toInt_mul, BitVec.toInt_signExtend_of_le (by decide), BitVec.toInt_ofNat', Int.mul_bmod_bmod]
    _ = v.toInt * (Config.mul slot : Int) := Int.bmod_eq_of_le (by omega) (by omega)

/-- R87, R90: a thousandth of the scaled value is the quotient by the slot's divisor, since `MUL * DIV = 1000`. -/
theorem scale_div_thousand (slot : Slot) (v : Raw) :
    ((scale slot v).toInt : Rat) / 1000 = (v.toInt : Rat) / (Config.div slot : Rat) := by
  obtain ⟨hmul, -⟩ := mul_range slot
  have hne : (Config.mul slot : Rat) ≠ 0 := Nat.cast_ne_zero.2 hmul.ne'
  have hden : (1000 : Rat) = Config.mul slot * Config.div slot := mod_cast (mul_mul_div slot).symm
  rw [scale_toInt, Int.cast_mul, Int.cast_natCast, hden, mul_comm (v.toInt : Rat), mul_div_mul_left _ _ hne]

/-- Settles O41: the product by `scale_toInt`, the quotient by `scale_div_thousand`. -/
theorem scaleIsTheExactProduct : Obligations.ScaleIsTheExactProduct :=
  ⟨scale_toInt, scale_div_thousand, by decide, by decide, mul_mul_div⟩

/-- R91: the scaled value lies on the multiples of the slot's multiplier, within the raw range of them. -/
theorem scale_range (slot : Slot) (v : Raw) : -32768 * (Config.mul slot : Int) ≤ (scale slot v).toInt ∧
    (scale slot v).toInt ≤ 32767 * (Config.mul slot : Int) ∧ (Config.mul slot : Int) ∣ (scale slot v).toInt := by
  obtain ⟨hlow, hhigh⟩ := product_range slot v
  rw [scale_toInt]
  exact ⟨hlow, hhigh, Int.dvd_mul_left _ _⟩

theorem scale_sign (slot : Slot) (v : Raw) : (scale slot v).toInt.sign = v.toInt.sign := by
  obtain ⟨hmul, -⟩ := mul_range slot
  rw [scale_toInt, Int.sign_mul, Int.sign_eq_one_of_pos (Int.natCast_pos.2 hmul), Int.mul_one]

theorem scale_injective (slot : Slot) : Function.Injective (scale slot) := by
  intro v w h
  obtain ⟨hmul, -⟩ := mul_range slot
  have hprod : v.toInt * (Config.mul slot : Int) = w.toInt * (Config.mul slot : Int) := by
    rw [← scale_toInt, ← scale_toInt, h]
  exact BitVec.toInt_inj.1 (Int.eq_of_mul_eq_mul_right (Int.natCast_ne_zero.2 hmul.ne') hprod)

theorem scale_zero (slot : Slot) : scale slot 0 = 0 := BitVec.zero_mul

/-- Settles O42: each law is that of the exact product; only zero scales to zero because `scale slot` is injective. -/
theorem scaleNeverOverflows : Obligations.ScaleNeverOverflows := by
  refine ⟨fun slot v => ⟨abs_product_le slot v, ?_⟩,
    fun slot v => ⟨scale_sign slot v, (scale_injective slot).eq_iff' (scale_zero slot)⟩, fun slot v hmul => ?_,
    scale_range 4, scale_range 5, scale_injective⟩
  · rw [scale_toInt]
    exact (abs_product_le slot v).trans_lt (by decide)
  · have hrange := scale_range slot v
    rw [hmul] at hrange
    exact hrange

/-- Settles O43: the two arguments of the rounding are one rational number. -/
theorem floatContractForEveryFormat : Obligations.FloatContractForEveryFormat := fun fl slot v =>
  congrArg fl (scale_div_thousand slot v)

/-! ### The words of the two commands (R53, R88, R89) -/

theorem encode_scl_toNat (slot : Slot) (v : Raw) :
    (encode (.scl slot v)).toNat = 0x60000000 ||| (slot.val <<< 16 ||| v.toNat) := by
  have hslot : (0#5 ++ slotBits slot).toNat = slot.val := by
    revert slot
    decide
  rw [← hslot, ← BitVec.toNat_append]
  exact BitVec.toNat_append 0x60#8 _

theorem encode_scl (slot : Slot) (v : Raw) :
    encode (.scl slot v) = 0x60000000#32 ||| BitVec.ofNat 32 slot.val <<< 16 ||| v.setWidth 32 := by
  have hzero : encode (.scl slot 0) = 0x60000000#32 ||| BitVec.ofNat 32 slot.val <<< 16 := by
    revert slot
    decide
  apply BitVec.eq_of_toNat_eq
  rw [← hzero, BitVec.toNat_or, encode_scl_toNat, encode_scl_toNat, BitVec.toNat_setWidth_of_le (by decide),
    show (0 : Raw).toNat = 0 from rfl, Nat.or_zero, Nat.or_assoc]

theorem encode_rds (slot : Slot) : encode (.rds slot) = 0x61000000#32 ||| BitVec.ofNat 32 slot.val := by
  revert slot
  decide

/-! ### `SCL` and `RDS` -/

/-- Settles O44: the effect from `CarriedOut`, the values at multiplier 100 and the two examples by evaluation. -/
theorem sclScalesItsOperand : Obligations.SclScalesItsOperand := by
  refine ⟨encode_scl, fun s slot v hpv => ?_, fun slot v => refusedWhileFaulted_of_not_system nofun nofun,
    fun w hop hbits => answeredIllegal_of_not_accepts (.scl 0 0) hop fun hacc => ?_, scale_zero, fun slot hmul => ?_,
    fun s hpv => ?_⟩
  · exact CarriedOut.exec_eq (i := .scl slot v) rfl (.inl hpv)
  · exact hbits ((operandOf_extract w (by decide)).symm.trans (accepts_SV.1 hacc))
  · unfold scale
    rw [hmul]
    decide
  · obtain ⟨-, -, -, -, -, -, -, -, -, hscl, -⟩ := okResponseOfEachCommand s hpv
    exact ⟨hscl 0 10, hscl 5 (-1050)⟩

theorem exec_rds {s : State} {slot : Slot} {v : Option Raw} (hpv : s.pv = false) (hres : s.res[slot] = v) :
    exec (.rds slot) s = .next (s.answer (.scaled (v.map (scale slot)))) :=
  hres ▸ CarriedOut.exec_eq (i := .rds slot) rfl (.inl hpv)

/-- Settles O45: the answer is the slot's result mapped through `scale`, and absent before a `DECODE` by I3 (R29). -/
theorem rdsReadsTheScaledValue : Obligations.RdsReadsTheScaledValue := by
  refine ⟨encode_rds, fun s slot v => exec_rds, fun s slot => exec_rds, fun s slot hinv hpv hdone => ?_,
    fun slot => refusedWhileFaulted_of_not_system nofun nofun,
    fun w hop hbits => answeredIllegal_of_not_accepts (.rds 0) hop fun hacc => ?_, rfl, fun slot => ?_,
    fun s hpv hres => ?_⟩
  · obtain ⟨habsent, -⟩ := hinv.undecoded hdone
    exact ⟨_, .ok (.scaled none), exec_rds hpv (habsent slot), rfl, rfl⟩
  · exact hbits ((operandOf_extract w (by decide)).symm.trans (accepts_S.1 hacc))
  · rw [scale_zero]
    rfl
  · exact ⟨_, _, exec_rds hpv hres, rfl, rfl⟩

end Sys2Proof.Machine
end

section
/-!
PROOF. The system family (43_system.md R94 to R97): `RST` and `RDST` are the only commands that a faulted block answers
with `OK`, `RST` is the only one that clears `PV` or lowers `MISCNT`, and `STATUS` is the number its fields stand for
(10_state.md R28).
-/

namespace Sys2Proof.Machine

/-! ### What runs while faulted (R97) -/

/-- A command that ends with `OK` was admitted: a refusal answers `ERR_FAULT` (R101). -/
theorem admitted_of_answer_ok {i : Instr} {s t : State} {a : Answer} (h : exec i s = .next t)
    (hok : t.responses = .ok a :: s.responses) : Admitted i s := by
  rcases exec_next_cases h with ⟨-, -, -, rfl⟩ | ⟨hadm, -⟩
  · simp at hok
  · exact hadm

/-- Settles O14: a command answered with `OK` was admitted, and a faulted block admits the system family alone. -/
theorem onlySystemCommandsRunWhileFaulted : Obligations.OnlySystemCommandsRunWhileFaulted := by
  refine ⟨fun i s hpv => ⟨?_, ?_⟩, answeredIllegal_of_not_accepts .rst (by decide) (by decide)⟩
  · rintro ⟨t, a, h, hok⟩
    exact (admitted_of_answer_ok h hok).resolve_left (by simp [hpv])
  · rintro (rfl | rfl) <;> exact ⟨_, _, rfl, rfl⟩

/-! ### `RST` (R94) -/

/-- `MISCNT` never falls but by `RST`: a `DECODE` adds to it, up to 255 (R23). -/
theorem misCnt_le_of_ne_rst {i : Instr} {s t : State} (hrst : i ≠ .rst) (h : exec i s = .next t) :
    s.misCnt.toNat ≤ t.misCnt.toNat := by
  obtain ⟨hrule, -⟩ := mismatchCounterRule
  rw [hrule i s t h, if_neg hrst]
  split
  · rw [BitVec.toNat_ofNat]
    omega
  · exact le_rfl

/-- Settles O16: the effect is `State.resetBlock`, answered; the other commands by `pv_after` and `misCnt_le_of_ne_rst`. -/
theorem rstResetsTheBlock : Obligations.RstResetsTheBlock := by
  refine ⟨rfl, exec_rst, fun i s t hrst h => ⟨fun hpv => ?_, misCnt_le_of_ne_rst hrst h⟩, exec_rst State.reset,
    fun w hop hbits => answeredIllegal_of_not_accepts .rst hop (mt accepts_Z.1 hbits)⟩
  exact (pv_after h).2 ⟨hrst, .inl hpv⟩

/-! ### `RDST` (R95) -/

/-- A field in front of `m` bits counts in steps of `2 ^ m`. -/
theorem toNat_append_eq_mul_add {n m : Nat} (x : BitVec n) (y : BitVec m) :
    (x ++ y).toNat = x.toNat * 2 ^ m + y.toNat := by
  rw [BitVec.toNat_append, ← Nat.shiftLeft_add_eq_or_of_lt y.isLt, Nat.shiftLeft_eq]

/-- `STATUS` as a number: its fields, each at its place (R28). -/
theorem status_toNat {s : State} (hlen : s.len ≤ 25) : s.status.toNat = s.pv.toNat * 2 ^ 23 + s.done.toNat * 2 ^ 22 +
    s.len * 2 ^ 16 + s.misMask.toNat * 2 ^ 8 + s.misCnt.toNat := by
  have hbits : s.lenBits.toNat = s.len := Nat.mod_eq_of_lt (hlen.trans_lt (by decide))
  unfold State.status
  simp only [toNat_append_eq_mul_add, BitVec.toNat_ofBool, BitVec.ofNat_eq_ofNat, BitVec.toNat_zero, hbits]
  ring

/-- A faulted block has `DONE` and `MISMASK` zero (I2, R29). -/
theorem State.Inv.status_of_faulted {s : State} (hs : s.Inv) (hpv : s.pv = true) :
    s.status.toNat = 0x800000 + s.len * 2 ^ 16 + s.misCnt.toNat := by
  obtain ⟨hdone, -, hmask⟩ := hs.faulted hpv
  simp [status_toNat hs.lenBounded, hpv, hdone, hmask]

/-- Settles O17: the answer is `STATUS` by definition, and its number is the sum of its fields. -/
theorem rdstReadsStatus : Obligations.RdstReadsStatus :=
  ⟨rfl, fun _ => rfl, fun _ => status_toNat, fun _ => State.Inv.status_of_faulted, rfl,
    fun _ hop hbits => answeredIllegal_of_not_accepts .rdst hop (mt accepts_Z.1 hbits)⟩

end Sys2Proof.Machine
end

section
/-!
PROOF. Refusals and the fault (60_exceptions.md R100 to R108): what refuses a word and leaves the block as it was, which
command raises `PreconditionViolation` and when, and the only way out of the faulted condition.
-/

namespace Sys2Proof.Machine

/-! ### The refusals (R100, R101) -/

/-- Settles O12: the legality check is the first one, before the faulted condition is looked at. -/
theorem illegalWordIsRefusedInEveryState : Obligations.IllegalWordIsRefusedInEveryState :=
  ⟨fun _ _ => answeredIllegal_of_error, rfl⟩

/-- Settles O13: every command but the two of the system family is behind the admission check (`exec_of_faulted`). -/
theorem faultedBlockRefusesCommands : Obligations.FaultedBlockRefusesCommands :=
  ⟨fun _ _ => exec_of_faulted, rfl⟩

/-! ### The entry of `PreconditionViolation` (R102, R103) -/

/-- Settles O31: `DECODE` at another `LEN` than 24 ends before the loop (`execDecode_of_len_ne`). -/
theorem preconditionViolationEntry : Obligations.PreconditionViolationEntry :=
  ⟨fun _ => execDecode_of_len_ne, rfl⟩

/-- Whatever the state, `FAULT_PV` is the answer of a `DECODE` that was carried out at another `LEN` than 24, and of no
other command. -/
theorem exec_answers_faultPv_iff {i : Instr} {s t : State} (h : exec i s = .next t) :
    t.responses = .faultPv :: s.responses ↔ s.pv = false ∧ i = .decode ∧ s.len ≠ 24 := by
  rcases exec_next_cases h with ⟨hpv, -, -, rfl⟩ | ⟨hadm, h⟩
  · simp [hpv]
  cases i with
  | decode =>
    have hpv : s.pv = false := hadm.operating nofun nofun
    rcases h with ⟨hlen, rfl⟩ | ⟨hlen, f, -, rfl⟩
    · simp [hpv, hlen]
    · simp [hlen]
  | _ => obtain rfl := h; simp

/-- Settles O32: the response by `exec_answers_faultPv_iff`, `PV` by `pv_after`, both with `PV` 0 before. -/
theorem preconditionViolationCause : Obligations.PreconditionViolationCause := by
  intro i s t hpv h
  refine ⟨by simpa [hpv] using exec_answers_faultPv_iff h, fun ht => ?_, ?_⟩
  · obtain ⟨-, hfaulted | hcause⟩ := (pv_after h).1 ht
    · simp [hpv] at hfaulted
    · exact hcause
  · rintro ⟨rfl, hlen⟩
    exact (pv_after h).2 ⟨nofun, .inr ⟨rfl, hlen⟩⟩

/-! ### The way out of the faulted condition (R108) -/

/-- All that a step can do: wait, be reset by the pin, refuse a word, or carry out what `exec` says of a command. -/
theorem step_next_cases {s t : State} (h : step s = .next t) :
    s.pending = [] ∧ t = s ∨
    (∃ rest, s.pending = .resetPin :: rest ∧ t = ({ s with pending := rest } : State).resetBlock) ∨
    ∃ w rest, s.pending = .command w :: rest ∧
      ((∃ e, decode w = .error e ∧ t = ({ s with pending := rest } : State).respond .errIllegal) ∨
        ∃ i, decode w = .ok i ∧ exec i { s with pending := rest } = .next t) := by
  rcases hp : s.pending with _ | ⟨w | _, rest⟩
  · exact .inl ⟨rfl, by simpa [step_of_nil hp] using h.symm⟩
  · refine .inr (.inr ⟨w, rest, rfl, ?_⟩)
    cases hw : decode w with
    | error e => exact .inl ⟨e, rfl, by simpa [step_of_illegal hp hw] using h.symm⟩
    | ok i => exact .inr ⟨i, rfl, (step_of_command hp hw).symm.trans h⟩
  · exact .inr (.inl ⟨rest, rfl, by simpa [step_of_resetPin hp] using h.symm⟩)

/-- The step takes `RST` or a reset pin. -/
def State.TakesReset (s : State) : Prop :=
  (∃ w rest, s.pending = .command w :: rest ∧ decode w = .ok .rst) ∨ ∃ rest, s.pending = .resetPin :: rest

/-- A faulted block is reset or stays faulted. -/
theorem step_resets_or_keeps_pv {s t : State} (hpv : s.pv = true) (h : step s = .next t) :
    s.TakesReset ∧ (∃ u : State, t = u.resetBlock) ∨ ¬s.TakesReset ∧ t.pv = true := by
  rcases step_next_cases h with ⟨hp, rfl⟩ | ⟨rest, hp, rfl⟩ | ⟨w, rest, hp, ⟨e, hw, rfl⟩ | ⟨i, hw, hi⟩⟩
  · exact .inr ⟨by simp [State.TakesReset, hp], hpv⟩
  · exact .inl ⟨.inr ⟨rest, hp⟩, _, rfl⟩
  · exact .inr ⟨by simp [State.TakesReset, hp, hw], hpv⟩
  · by_cases hrst : i = .rst
    · subst hrst
      obtain rfl : ({ s with pending := rest } : State).resetBlock.answer .nothing = t := by simpa [exec_rst] using hi
      exact .inl ⟨.inl ⟨w, rest, hp, hw⟩, State.answer { s with pending := rest } .nothing, rfl⟩
    · exact .inr ⟨by simp [State.TakesReset, hp, hw, hrst], (pv_after hi).2 ⟨hrst, .inl hpv⟩⟩

/-- A step that raises the fault starts from a block that is not faulted: faults do not nest. -/
theorem operating_of_step_answers_faultPv {s t : State} (h : step s = .next t)
    (hfault : t.responses = .faultPv :: s.responses) : s.pv = false := by
  rcases step_next_cases h with ⟨-, rfl⟩ | ⟨rest, -, rfl⟩ | ⟨w, rest, -, ⟨e, -, rfl⟩ | ⟨i, -, hi⟩⟩
  · simp at hfault
  · simp at hfault
  · simp at hfault
  · exact ((exec_answers_faultPv_iff hi).1 hfault).1

/-- Settles O56: a faulted block that takes a reset is left at the reset values, any other step keeps `PV`, and a step that
answers `FAULT_PV` does not start from a faulted block. -/
theorem onlyResetLeavesTheFaultedCondition : Obligations.OnlyResetLeavesTheFaultedCondition := by
  intro s t hpv h
  have nofault : t.responses ≠ .faultPv :: s.responses := fun hfault => by
    simp [operating_of_step_answers_faultPv h hfault] at hpv
  rcases step_resets_or_keeps_pv hpv h with ⟨hreset, u, rfl⟩ | ⟨hnone, ht⟩
  · exact ⟨iff_of_true rfl hreset, fun _ => ⟨rfl, by simp, rfl, rfl, rfl⟩, nofault⟩
  · have hstays : t.pv ≠ false := by simp [ht]
    exact ⟨iff_of_false hstays hnone, fun hleft => absurd hleft hstays, nofault⟩

end Sys2Proof.Machine
end
